-- ==== Sys2Proof/Word.lean ====
section
/-! DEFINITION. The word types of the block: one name for each width the spec gives (R20 to R24, R70). -/

namespace Sys2Proof

/-- A dispatch word, and every 8-bit quantity of the serial engine (R23, R70). -/
abbrev Byte := BitVec 8

/-- The Data Register and the bit counter (R21, R24). -/
abbrev Nibble := BitVec 4

/-- A state code of `ts` and an event class code `ev` (R74, R75). -/
abbrev Code := BitVec 3

end Sys2Proof
end

