-- ==== Sys2Proof/Config.lean ====
section
/-! DEFINITION. The parameters of the block (R6 of 00_scope.md): what this hardware fixes, what the spec leaves open, and the free values. -/

namespace Sys2Proof

/-- `ARB` (R6, R142): the order of service when both requests are ready. -/
inductive Arb where
  | any
  | seFirst
  | inFirst
  deriving DecidableEq, Repr

/-- `IN_EDGE_POL` (R6): which edge of the input line is the event. -/
inductive EdgePolarity where
  | rising
  | falling
  deriving DecidableEq, Repr, Inhabited

/-- `SLAVE_ADDR_BYTE` (R6, R22, R77). UNVERIFIED: the literal is unaudited in the source (log 9); unsafe if another address is fitted. -/
def Config.slaveAddrByte : Byte := 0x90#8

/-- `DATA_RESET` (R6, R21). UNVERIFIED: the spec's decision D4, the source gives no value (log 7); unsafe. -/
def Config.dataReset : Nibble := 0#4

/-- `BYTE_BITS` (R6, R79): the counter load of a byte transfer. -/
def Config.byteBits : Nibble := 8#4

/-- `ACK_BITS` (R6, R79): the counter load of an ack slot and of the stop-preparation bit. -/
def Config.ackBits : Nibble := 1#4

/-- The stop-preparation value (R79): "load 0, 1-bit transfer, output enabled". -/
def Config.stopPrep : Byte := 0x00#8

/-- The value presented while START is made (R79, R110; the spec's decision D11). -/
def Config.startDrive : Byte := 0x00#8

/-- The value presented while STOP is made (R79, R111; the spec's decision D11). -/
def Config.stopRelease : Byte := 0xFF#8

/-- `ARB` (R6, R142). The spec's default `any`, under which either ready request may be granted; safe (log 8). -/
def Config.arb : Arb := .any

/-- `SR_RESET` (R6, R23, R125): the draw that the `n`-th RESET puts into the shift register. A free value, safe (log 6). -/
opaque Config.srReset : Nat → Byte

/-- `PULSE_CYCLES` (R6, R119): about 1,000,000; documentation, no rule depends on it (log 10). -/
def Config.pulseCycles : Nat := 1000000

/-- `IN_EDGE_POL` (R6): OPEN, no rule depends on it (log 10). -/
opaque Config.inEdgePol : EdgePolarity

/-- `INTER_TXN_DELAY` (R6): OPEN, no rule depends on it (log 10). -/
opaque Config.interTxnDelay : Nat

/-- `SCL_RATE` (R6): OPEN, no rule depends on it (log 10). -/
opaque Config.sclRate : Nat

end Sys2Proof
end

