-- ==== Sys2Proof/Syntax.lean ====
section
/-! DEFINITION. The thirteen operations of the block (R80), the analogue of an instruction set. -/

namespace Sys2Proof

/-- One constructor per row of spec/opcode_table.json. -/
inductive Instr where
  /-- RESET (R125). -/
  | reset
  /-- ARM (R126). -/
  | arm
  /-- EDGE (R115). -/
  | edge
  /-- SHIFT with the environment's operand `e`, true when no other device pulls the data line low (R72, R105). -/
  | shift (e : Bool)
  /-- STEP.START (R91). -/
  | stepStart
  /-- STEP.AAW (R92). -/
  | stepAaw
  /-- STEP.AAC.ACK (R93). -/
  | stepAacAck
  /-- STEP.AAC.NACK (R94). -/
  | stepAacNack
  /-- STEP.DAW (R95). -/
  | stepDaw
  /-- STEP.DAC with the sampled bit `a` of its word, "not further used" (R73, R96). -/
  | stepDac (a : Bool)
  /-- STEP.STOP (R97). -/
  | stepStop
  /-- INBEGIN (R116). -/
  | inbegin
  /-- INEND (R117). -/
  | inend
  deriving DecidableEq, Repr

end Sys2Proof
end

