-- ==== Sys2Proof/WellFormed.lean ====
section
/-! DEFINITION. Well-formedness: of an operation, of a dispatch word in canonical form, and of the parameters that carry a constraint. -/

namespace Sys2Proof

/-- Every operation is well formed: its only operands are single bits, and both values are admitted (R71 to R73). -/
def Instr.wf : Instr → Bool
  | .reset => true
  | .arm => true
  | .edge => true
  | .shift _ => true
  | .stepStart => true
  | .stepAaw => true
  | .stepAacAck => true
  | .stepAacNack => true
  | .stepDaw => true
  | .stepDac _ => true
  | .stepStop => true
  | .inbegin => true
  | .inend => true

/-- The bits of a dispatch word that its format ignores are 0 (R70): bits 4 to 0 of an `EV` word, bits 3 to 0 of an `SH` word, none of an `ST` word. -/
def canonicalWord (dw : Byte) : Bool :=
  if dw.extractLsb' 5 3 = 3#3 then dw.extractLsb' 0 4 = 0#4
  else if dw.extractLsb' 5 3 = 4#3 then true
  else dw.extractLsb' 0 5 = 0#5

/-- The constraint of R6 on `SLAVE_ADDR_BYTE`: the write bit, bit 0, is 0. -/
def slaveAddrOk (addr : Byte) : Bool := !addr.getLsbD 0

/-- R56: the engine moves exactly two widths, 8 bits and 1 bit. -/
def transferWidthOk (bits : Nibble) : Bool := bits = 8#4 || bits = 1#4

/-- The parameters of Config meet the constraints the spec puts on them. -/
def configOk : Bool :=
  slaveAddrOk Config.slaveAddrByte && transferWidthOk Config.byteBits && transferWidthOk Config.ackBits

end Sys2Proof
end

