-- ==== Sys2Proof/Decode.lean ====
section
/-! DEFINITION. The dispatch word (30_encoding.md): its fields, the decoder, total on every word and rejecting by name, and the encoder. -/

namespace Sys2Proof

/-- Why a word matches no row of R80 (R81). -/
inductive DecodeError where
  /-- `ev = 7` names no event (0xE0 to 0xFF). -/
  | noEvent
  /-- An `ST` word with bit 3 set (0x88 to 0x8F, 0x98 to 0x9F). -/
  | bit3Set
  /-- An `ST` word with state code 6 or 7 (0x86, 0x87, 0x96, 0x97). -/
  | noStateCode
  /-- An `ST` word with the sampled bit set in a state that does not sample (0x90, 0x91, 0x93, 0x95). -/
  | sampledBitWithoutSampler
  deriving DecidableEq, Repr

/-- Bits 7 to 5, the event class `ev` (R70). -/
def evField (dw : Byte) : Code := dw.extractLsb' 5 3

/-- Bit 4: the operand `e` of an `SH` word, the sampled bit `a` of an `ST` word (R70). -/
def bit4Field (dw : Byte) : Bool := dw.getLsbD 4

/-- Bit 3 of an `ST` word, always 0 (R70, R73). -/
def bit3Field (dw : Byte) : Bool := dw.getLsbD 3

/-- Bits 2 to 0 of an `ST` word, the state code (R70). -/
def tsField (dw : Byte) : Code := dw.extractLsb' 0 3

/-- Format `ST` (R73, R80): the sampled bit and the state code select one of the seven STEP operations. -/
def decodeStep (a : Bool) (ts : Code) : Except DecodeError Instr :=
  match ts.toNat, a with
  | 0, false => .ok .stepStart
  | 1, false => .ok .stepAaw
  | 2, false => .ok .stepAacAck
  | 2, true => .ok .stepAacNack
  | 3, false => .ok .stepDaw
  | 4, a => .ok (.stepDac a)
  | 5, false => .ok .stepStop
  | n, _ => if n < 6 then .error .sampledBitWithoutSampler else .error .noStateCode

/-- The decoder (R80, R81, R84): every one of the 256 words is one operation or is rejected by name. -/
def decode (dw : Byte) : Except DecodeError Instr :=
  match (evField dw).toNat with
  | 0 => .ok .reset
  | 1 => .ok .arm
  | 2 => .ok .edge
  | 3 => .ok (.shift (bit4Field dw))
  | 4 => if bit3Field dw then .error .bit3Set else decodeStep (bit4Field dw) (tsField dw)
  | 5 => .ok .inbegin
  | 6 => .ok .inend
  | _ => .error .noEvent

/-- A word of format `EV`, in canonical form (R70, R71). -/
def evWord (ev : Code) : Byte := ev ++ 0#5

/-- A word of format `SH`, in canonical form (R70, R72). -/
def shWord (e : Bool) : Byte := 3#3 ++ BitVec.ofBool e ++ 0#4

/-- A word of format `ST` (R70, R73). -/
def stWord (a : Bool) (ts : Code) : Byte := 4#3 ++ BitVec.ofBool a ++ 0#1 ++ ts

/-- The encoder: the canonical word of an operation (R70, R80). -/
def encode : Instr → Byte
  | .reset => evWord 0#3
  | .arm => evWord 1#3
  | .edge => evWord 2#3
  | .shift e => shWord e
  | .stepStart => stWord false 0#3
  | .stepAaw => stWord false 1#3
  | .stepAacAck => stWord false 2#3
  | .stepAacNack => stWord true 2#3
  | .stepDaw => stWord false 3#3
  | .stepDac a => stWord a 4#3
  | .stepStop => stWord false 5#3
  | .inbegin => evWord 5#3
  | .inend => evWord 6#3

/-- One row of the opcode map (R80): a word matches it when `(dw AND mask) = bits`. -/
structure Row where
  bits : Byte
  mask : Byte
  deriving DecidableEq, Repr

/-- R80: a word matches a row when `(dw AND mask) = match`. -/
def Row.hits (r : Row) (dw : Byte) : Bool := dw &&& r.mask = r.bits

/-- The row of an operation in the table of R80. -/
def Instr.row : Instr → Row
  | .reset => ⟨0x00#8, 0xE0#8⟩
  | .arm => ⟨0x20#8, 0xE0#8⟩
  | .edge => ⟨0x40#8, 0xE0#8⟩
  | .shift _ => ⟨0x60#8, 0xE0#8⟩
  | .stepStart => ⟨0x80#8, 0xFF#8⟩
  | .stepAaw => ⟨0x81#8, 0xFF#8⟩
  | .stepAacAck => ⟨0x82#8, 0xFF#8⟩
  | .stepAacNack => ⟨0x92#8, 0xFF#8⟩
  | .stepDaw => ⟨0x83#8, 0xFF#8⟩
  | .stepDac _ => ⟨0x84#8, 0xEF#8⟩
  | .stepStop => ⟨0x85#8, 0xFF#8⟩
  | .inbegin => ⟨0xA0#8, 0xE0#8⟩
  | .inend => ⟨0xC0#8, 0xE0#8⟩

/-- The thirteen rows of R80, in the table's order. -/
def opcodeRows : List Row :=
  [Instr.reset, .arm, .edge, .shift false, .stepStart, .stepAaw, .stepAacAck, .stepAacNack, .stepDaw,
    .stepDac false, .stepStop, .inbegin, .inend].map Instr.row

/-- The first dispatch word of an instruction given as a number of `nbits` bits, every bit above them 0 (R84: a word is 8 bits; log 22). -/
def tableWord (nbits w : Nat) : Byte := BitVec.ofNat 8 (w % 2 ^ nbits)

/-- The operation the decoder reads from a word of spec/opcode_table.json, none where it rejects. -/
def decodeTableWord (nbits w : Nat) : Option Instr := (decode (tableWord nbits w)).toOption

end Sys2Proof
end

