-- ==== Sys2Proof/Machine/State.lean ====
section
/-! DEFINITION. The state of the block (10_state.md), the reasons a step can stop, and the state after reset. -/

namespace Sys2Proof.Machine

/-- The six states of the Transaction State Machine, by name (R20). -/
inductive TState where
  | start
  | addrAckWait
  | addrAckCheck
  | dataAckWait
  | dataAckCheck
  | stop
  deriving DecidableEq, Repr

/-- What the master presents on the data line at one clock pulse (R52): a driven bit, or `Z` for released. -/
inductive Drive where
  | driven (bit : Bool)
  | z
  deriving DecidableEq, Repr

/-- The alphabet of the trace (R33): the wire events of R52, WAKE (R127), IND(0) and IND(1) (R116, R117) and RST (R125). -/
inductive TraceEvent where
  | start
  | bit (d : Drive) (s : Bool)
  | stop
  | wake
  | ind (level : Bool)
  | rst
  deriving DecidableEq, Repr

/-- The event classes of R75. `step` is the grant of the serial-engine request: which STEP runs is resolved from the state (R76). -/
inductive Event where
  | reset
  | arm
  | edge
  | shift (e : Bool)
  | step
  | inbegin
  | inend
  deriving DecidableEq, Repr

/-- One event offered to the model (R10, R82): an event; an event under its resolved mnemonic, "an assertion that this is the one that runs"
(the bit `a` of STEP.DAC is no part of a mnemonic and is not compared); or a dispatch word placed before the decoder. -/
inductive Offer where
  | event (ev : Event)
  | resolved (i : Instr)
  | word (dw : Byte)
  deriving DecidableEq, Repr

/-- The whole state: the thirteen elements S0 to S12 of R39, under the spec's names, and two fields of the model's own. -/
structure State where
  /-- S0, TransactionState, as its 3-bit code (R20, R74). -/
  ts : Code
  /-- S1, the Data Register (R21). -/
  data : Nibble
  /-- S2, the shift register of the serial engine (R23). -/
  sr : Byte
  /-- S3, the bit counter: bits of the pending transfer still to shift (R24). -/
  cnt : Nibble
  /-- S4, output enable: true drives the data line from `sr[7]`, false releases it (R25). -/
  oe : Bool
  /-- S5, pass-through enable (R26). -/
  ge : Bool
  /-- S6, `se_ifg`, the serial-engine interrupt pending flag (R27). -/
  seIfg : Bool
  /-- S7, `se_ie`, the serial-engine interrupt enable (R28). -/
  seIe : Bool
  /-- S8, `in_ifg`, the input-edge interrupt pending flag (R29). -/
  inIfg : Bool
  /-- S9, `in_ie`, the input-edge interrupt enable (R30). -/
  inIe : Bool
  /-- S10, `in_busy`: the Input Event Handler is inside its hold interval (R31). -/
  inBusy : Bool
  /-- S11, the indicator line, true = high (R32). -/
  ind : Bool
  /-- S12, the trace of output events, oldest first (R33). -/
  tr : List TraceEvent
  /-- The model's own: the events still to be offered, the next one first (R82). DESIGN CHOICE, safe (log 1). -/
  offers : List Offer
  /-- The model's own: how many draws of SR_RESET have been taken (R125). DESIGN CHOICE, safe (log 6). -/
  draws : Nat
  deriving DecidableEq, Repr

/-- A state the rules cannot reach was reached (R10 d); a faulted state is never final. -/
inductive Fault where
  /-- Raised by every STEP, and by the dispatch of an offered STEP, when a serial-engine request is granted with `ts` at code 6 or 7 (R81). Safe. -/
  | illegalState
  deriving DecidableEq, Repr

/-- No operation occurs: the offer has no meaning, or is not enabled, in this state (R10 b, c). -/
inductive Refusal where
  /-- An instruction without a meaning yet; raised by no arm of this model. Safe. -/
  | notModelled (mnemonic : String)
  /-- `step` met a dispatch word that matches no row (R81); the decoder's reason. Safe. -/
  | invalidWord (why : DecodeError)
  /-- ARM offered with `ts` not Start or `cnt > 0`, "refuse(ArmWhileBusy)" (R126). Safe. -/
  | armWhileBusy
  /-- SHIFT offered with `cnt = 0`: not enabled (R105, R10 b). DEDUCED outcome, safe (log 3). -/
  | shiftNotEnabled
  /-- A STEP offered with the serial-engine request not ready or not granted (R90, R10 b). DEDUCED outcome, safe (log 3). -/
  | stepNotEnabled
  /-- A STEP offered by its own mnemonic or word while `ts` and the sampler select another STEP (R76, R82, R90). DEDUCED outcome, safe (log 14). -/
  | stepNotSelected
  /-- INBEGIN offered with the input request not ready or not granted (R116, R10 b). DEDUCED outcome, safe (log 3). -/
  | inbeginNotEnabled
  /-- INEND offered with `in_busy = 0` (R117, R10 b). DEDUCED outcome, safe (log 3). -/
  | inendNotEnabled
  deriving DecidableEq, Repr

/-- The machine right after reset, which is the block after startup (R38, R165): `ts` at the code of Start, both sources enabled and not
pending, the bus released, the indicator high, an empty trace. `sr` is unspecified in the spec: 0 here, DESIGN CHOICE, unsafe (log 5). -/
def State.reset : State where
  ts := 0#3
  data := Config.dataReset
  sr := 0#8
  cnt := 0#4
  oe := false
  ge := false
  seIfg := false
  seIe := true
  inIfg := false
  inIe := true
  inBusy := false
  ind := true
  tr := []
  offers := []
  draws := 0

end Sys2Proof.Machine
end

