-- ==== Sys2Proof/Machine/Operands.lean ====
section
/-! DEFINITION. The operands of the operations: state codes (R74), the bytes the steps load (R77 to R79), what the master presents on the data line (R52, R109), the sampled level (R53) and the ACK sampler (R108). -/

namespace Sys2Proof.Machine

/-- The code of a state (R74). -/
def TState.code : TState → Code
  | .start => 0#3
  | .addrAckWait => 1#3
  | .addrAckCheck => 2#3
  | .dataAckWait => 3#3
  | .dataAckCheck => 4#3
  | .stop => 5#3

/-- The state a code names; codes 6 and 7 name none (R74, R81). -/
def TState.ofCode (c : Code) : Option TState :=
  match c.toNat with
  | 0 => some .start
  | 1 => some .addrAckWait
  | 2 => some .addrAckCheck
  | 3 => some .dataAckWait
  | 4 => some .dataAckCheck
  | 5 => some .stop
  | _ => none

/-- The two rows of the state table that say "Sample received bit" (R73). -/
def TState.samples : TState → Bool
  | .addrAckCheck => true
  | .dataAckCheck => true
  | .start => false
  | .addrAckWait => false
  | .dataAckWait => false
  | .stop => false

/-- The byte STEP.START loads: the constant as it is, nothing assembled at run time (R77). -/
def addressByte : Byte := Config.slaveAddrByte

/-- The byte STEP.AAC.ACK loads: `zext_8(data)` (R78). -/
def dataByte (data : Nibble) : Byte := data.setWidth 8

/-- The received bit, `sr[0]`: the level sampled by the last SHIFT (R108). False is ACK, true is NACK. -/
def receivedBit (s : State) : Bool := s.sr.getLsbD 0

/-- The bit `a` of the dispatch word: the received bit in the two check states, 0 in every other (R73, R76, R108). -/
def ackSample (s : State) : Bool :=
  match TState.ofCode s.ts with
  | some t => t.samples && receivedBit s
  | none => false

/-- What the master presents at a clock pulse: `sr[7]` with the output enabled, `Z` in input mode (R25, R105). -/
def presented (s : State) : Drive := if s.oe then .driven (s.sr.getLsbD 7) else .z

/-- The master's own contribution `m` to the data line: a driven bit itself, 1 when released (R53). -/
def Drive.contribution : Drive → Bool
  | .driven b => b
  | .z => true

/-- The sampled level `s = m AND e`, the wired-AND of the bus (R53). -/
def sampledLevel (d : Drive) (e : Bool) : Bool := d.contribution && e

/-- `sr[6:0] ++ s`: shift toward bit 7, the sampled bit into bit 0 (R23, R105). -/
def shiftIn (sr : Byte) (s : Bool) : Byte := sr.extractLsb' 0 7 ++ BitVec.ofBool s

/-- `(data + 1) mod 16` on a 4-bit unsigned value (R120). -/
def nextData (data : Nibble) : Nibble := data + 1#4

/-- With the pass-through on and the output enabled the drive equals `sr[7]` at once; none when it changes only at a SHIFT (R26, R109). -/
def passThroughDrive (s : State) : Option Bool := if s.ge && s.oe then some (s.sr.getLsbD 7) else none

/-- What the master presents on the data line after an event, given what it presented before: START and STOP are the low and the high
level of R110 and R111, a `BIT` is its own `d` (R34, R52), RST is released; WAKE and the indicator leave the line alone. -/
def driveAfter (d : Drive) : TraceEvent → Drive
  | .start => .driven false
  | .bit d' _ => d'
  | .stop => .driven true
  | .rst => .z
  | .wake => d
  | .ind _ => d

/-- The presented bit: what the master put on the data line at the last wire event (R34, R109). Before any, nothing: `Z`. -/
def presentedBit (tr : List TraceEvent) : Drive := tr.foldl driveAfter .z

/-- The master's drive of the data line, port `sda_o` (R34): `sr[7]` at once through the pass-through; with the pass-through off the presented
bit, so that it changes only at a SHIFT (R109); released while the output is disabled (R25). DEDUCED where `oe` alone changes (log 26). -/
def sdaDrive (s : State) : Drive :=
  match passThroughDrive s with
  | some b => .driven b
  | none => if s.oe then presentedBit s.tr else .z

/-- The output port `sda_o`: the master pulls the data line low when the output is enabled and the presented bit is 0 (R34). -/
def sdaPulledLow (s : State) : Bool := sdaDrive s = .driven false

end Sys2Proof.Machine
end

