-- ==== Sys2Proof/Machine/Flags.lean ====
section
/-! DEFINITION. The interrupt arbiter: requests, grants (R140 to R142), and the setting of the serial-engine flag at completion (R106). -/

namespace Sys2Proof.Machine

/-- `se_req = se_ifg AND se_ie` (R141). -/
def seReq (s : State) : Bool := s.seIfg && s.seIe

/-- `in_req = in_ifg AND in_ie` (R141). -/
def inReq (s : State) : Bool := s.inIfg && s.inIe

/-- Whether a policy lets a STEP be granted, from the two requests (R142). -/
def arbGrantsSe : Arb → Bool → Bool → Bool
  | .any, se, _ => se
  | .seFirst, se, _ => se
  | .inFirst, se, inp => se && !inp

/-- Whether a policy lets an INBEGIN be granted, from the two requests (R142). -/
def arbGrantsIn : Arb → Bool → Bool → Bool
  | .any, _, inp => inp
  | .seFirst, se, inp => inp && !se
  | .inFirst, _, inp => inp

/-- The arbiter may grant the serial-engine request now (R141, R142). -/
def seGranted (s : State) : Bool := arbGrantsSe Config.arb (seReq s) (inReq s)

/-- The arbiter may grant the input request now (R141, R142). -/
def inGranted (s : State) : Bool := arbGrantsIn Config.arb (seReq s) (inReq s)

/-- A transfer is pending exactly when `cnt > 0` (R24). -/
def transferPending (s : State) : Bool := s.cnt != 0#4

/-- The value of `se_ifg` after a SHIFT that leaves `cnt` bits: set on completion, otherwise unchanged (R105, R106). -/
def flagAfterShift (cnt : Nibble) (seIfg : Bool) : Bool := seIfg || cnt == 0#4

/-- The block is at rest, so that ARM is admitted: `ts = Start and cnt = 0` (R126). -/
def armAdmitted (s : State) : Bool := s.ts == TState.start.code && s.cnt == 0#4

end Sys2Proof.Machine
end

