-- ==== Sys2Proof/Machine/Ops.lean ====
section
/-! DEFINITION. The shared operations: the trace and the wire primitives (R33, R52), the engine's capabilities (R112), START and STOP generation (R110, R111), the handler frame of a STEP (R90, R144, R145), reset (R125). -/

namespace Sys2Proof.Machine

/-- `emit(x)`: append an event to the trace (R8, R33). -/
def emit (x : TraceEvent) (s : State) : State := { s with tr := s.tr ++ [x] }

/-- `WireStart()` (R52). -/
def wireStart (s : State) : State := emit .start s

/-- `WireStop()` (R52). -/
def wireStop (s : State) : State := emit .stop s

/-- `WireBit(d, e)` (R52, R53): the sampled level, and the state with `BIT(d, s)` in the trace. -/
def wireBit (d : Drive) (e : Bool) (s : State) : Bool × State :=
  (sampledLevel d e, emit (.bit d (sampledLevel d e)) s)

/-- `sr <- v`: the optional half of configure-transfer (R112). -/
def loadSr (v : Byte) (s : State) : State := { s with sr := v }

/-- `cnt <- n`: the bit count of configure-transfer (R79, R112). -/
def loadCnt (n : Nibble) (s : State) : State := { s with cnt := n }

/-- set-output-enable (R112). -/
def setOe (b : Bool) (s : State) : State := { s with oe := b }

/-- The pass-through enable (R26, R109). -/
def setGe (b : Bool) (s : State) : State := { s with ge := b }

/-- `ts <- <state name>` (R8). -/
def goTo (t : TState) (s : State) : State := { s with ts := t.code }

/-- `GenStart()`: `sr <- 0x00; oe <- 1; ge <- 1; WireStart(); ge <- 0` (R110). -/
def genStart (s : State) : State :=
  setGe false (wireStart (setGe true (setOe true (loadSr Config.startDrive s))))

/-- `GenStop()`: `sr <- 0xFF; ge <- 1; WireStop(); ge <- 0; oe <- 0` (R111). -/
def genStop (s : State) : State :=
  setOe false (setGe false (wireStop (setGe true (loadSr Config.stopRelease s))))

/-- `StepEntry()`: `saved_in_ie <- in_ie; in_ie <- 0` (R144). The saved value is a temporary of the operation, not state. -/
def stepEntry (s : State) : Bool × State := (s.inIe, { s with inIe := false })

/-- `StepExit()`: `se_ifg <- 0; in_ie <- saved_in_ie` (R145). -/
def stepExit (savedInIe : Bool) (s : State) : State := { s with seIfg := false, inIe := savedInIe }

/-- A body between its entry and its exit: one service of the serial-engine interrupt (R90, R144, R145). -/
def serviceFrame (body : State → State) (s : State) : State :=
  stepExit (stepEntry s).1 (body (stepEntry s).2)

/-- The enabling of a STEP and its frame (R90). The request must be ready and granted (R141, R142); a granted request with `ts` at code 6
or 7 faults (R81); the operation that runs is the one `ts` and, in AddrAckCheck, the sampled bit select (R76). `admits` is the
condition on the sampled bit. -/
def stepService (here : TState) (admits : Bool) (body : State → State) (s : State) : Host.Outcome State Fault Refusal :=
  if seGranted s then
    match TState.ofCode s.ts with
    | none => .fault .illegalState
    | some t => if t = here ∧ admits = true then .next (serviceFrame body s) else .refused .stepNotSelected
  else .refused .stepNotEnabled

/-- Release the data line for an ack slot: "input mode, 1-bit transfer" (R92, R95). -/
def ackSlot (next : TState) (s : State) : State := goTo next (loadCnt Config.ackBits (setOe false s))

/-- "load 0, 1-bit transfer, output enabled", to Stop (R94, R96). -/
def prepareStop (s : State) : State :=
  goTo .stop (loadCnt Config.ackBits (loadSr Config.stopPrep (setOe true s)))

/-- Entry of the input handler: `se_ie <- 0; in_ie <- 0` (R116, R146). -/
def inputEntry (s : State) : State := { s with seIe := false, inIe := false }

/-- Return of the input handler: `in_ifg <- 0; in_ie <- 1; se_ie <- 1` (R117, R146). -/
def inputExit (s : State) : State := { s with inIfg := false, inIe := true, seIe := true }

/-- The indicator line and its event (R32, R116, R117). -/
def driveInd (level : Bool) (s : State) : State := emit (.ind level) { s with ind := level }

/-- Every element to its reset value, with the given DATA_RESET and the given draw of SR_RESET (R125, R38). The trace goes on. -/
def resetElements (dataReset : Nibble) (srDraw : Byte) (s : State) : State :=
  { s with
    ts := TState.start.code, data := dataReset, sr := srDraw, cnt := 0#4, oe := false, ge := false,
    seIfg := false, seIe := true, inIfg := false, inIe := true, inBusy := false, ind := true }

/-- Take one draw: the free value and the state with the draw counted (R125; log 6). -/
def takeDraw (s : State) : Byte × State := (Config.srReset s.draws, { s with draws := s.draws + 1 })

end Sys2Proof.Machine
end

