-- ==== Sys2Proof/Machine/Engine.lean ====
section
/-! DEFINITION. The serial-engine family: SHIFT (41_serial_engine.md). -/

namespace Sys2Proof.Machine

/-- One bit moved: presented or released, sampled, shifted in, counted, the request raised on completion (R105, R106). -/
def shiftBit (e : Bool) (s : State) : State :=
  let (level, t) := wireBit (presented s) e s
  { t with sr := shiftIn t.sr level, cnt := t.cnt - 1#4, seIfg := flagAfterShift (t.cnt - 1#4) t.seIfg }

/-- SHIFT (R105): enabled by `cnt > 0` alone; not held by the enables or by `in_busy`. -/
def execShift (e : Bool) (s : State) : Host.Outcome State Fault Refusal :=
  if transferPending s then .next (shiftBit e s) else .refused .shiftNotEnabled

end Sys2Proof.Machine
end

