-- ==== Sys2Proof/Machine/HostEvents.lean ====
section
/-! DEFINITION. The host family: RESET and ARM (43_host_interface.md). -/

namespace Sys2Proof.Machine

/-- RESET (R125): admitted in every state; no STOP is made; `sr` is a fresh draw. -/
def execReset (s : State) : Host.Outcome State Fault Refusal :=
  let (srDraw, t) := takeDraw s
  .next (emit .rst (resetElements Config.dataReset srDraw t))

/-- ARM (R126): admitted only at rest, `ts = Start and cnt = 0`. -/
def execArm (s : State) : Host.Outcome State Fault Refusal :=
  if armAdmitted s then .next { s with seIfg := true } else .refused .armWhileBusy

end Sys2Proof.Machine
end

