-- ==== Sys2Proof/Machine/Input.lean ====
section
/-! DEFINITION. The input family: EDGE, INBEGIN, INEND (42_input_event.md). -/

namespace Sys2Proof.Machine

/-- EDGE (R115): the flag is set whatever the enable and the busy bit. -/
def execEdge (s : State) : Host.Outcome State Fault Refusal := .next { s with inIfg := true }

/-- INBEGIN (R116, R120): the first half of the input service, up to the hold. -/
def execInbegin (s : State) : Host.Outcome State Fault Refusal :=
  if inGranted s then
    let t := inputEntry s
    .next { driveInd false { t with data := nextData t.data } with inBusy := true }
  else .refused .inbeginNotEnabled

/-- INEND (R117): the second half; the flag is cleared whether or not an EDGE set it again. -/
def execInend (s : State) : Host.Outcome State Fault Refusal :=
  if s.inBusy then .next { inputExit (driveInd true s) with inBusy := false }
  else .refused .inendNotEnabled

end Sys2Proof.Machine
end

