-- ==== Sys2Proof/Machine/Tsm.lean ====
section
/-! DEFINITION. The TSM family: the seven STEP operations (40_transaction_fsm.md). -/

namespace Sys2Proof.Machine

/-- STEP.START (R91). -/
def execStepStart (s : State) : Host.Outcome State Fault Refusal :=
  stepService .start true
    (fun s => goTo .addrAckWait (loadCnt Config.byteBits (loadSr addressByte (genStart s)))) s

/-- STEP.AAW (R92). -/
def execStepAaw (s : State) : Host.Outcome State Fault Refusal :=
  stepService .addrAckWait true (ackSlot .addrAckCheck) s

/-- STEP.AAC.ACK (R93): enabled when the sampled bit is 0; the one place where `data` is read. -/
def execStepAacAck (s : State) : Host.Outcome State Fault Refusal :=
  stepService .addrAckCheck (!receivedBit s)
    (fun s => goTo .dataAckWait (loadCnt Config.byteBits (loadSr (dataByte s.data) (setOe true s)))) s

/-- STEP.AAC.NACK (R94): enabled when the sampled bit is 1; the data phase is skipped and nothing records it. -/
def execStepAacNack (s : State) : Host.Outcome State Fault Refusal :=
  stepService .addrAckCheck (receivedBit s) prepareStop s

/-- STEP.DAW (R95). -/
def execStepDaw (s : State) : Host.Outcome State Fault Refusal :=
  stepService .dataAckWait true (ackSlot .dataAckCheck) s

/-- STEP.DAC (R96): the sampled bit is read and not used, in the word as in the state (log 13). -/
def execStepDac (_a : Bool) (s : State) : Host.Outcome State Fault Refusal :=
  stepService .dataAckCheck true prepareStop s

/-- STEP.STOP (R97): STOP, back to Start, WAKE (R127). -/
def execStepStop (s : State) : Host.Outcome State Fault Refusal :=
  stepService .stop true (fun s => emit .wake (goTo .start (genStop s))) s

end Sys2Proof.Machine
end

