-- ==== Sys2Proof/Machine/Dispatch.lean ====
section
/-! DEFINITION. The dispatch of an operation to its meaning: one arm per row of the opcode table (R80). -/

namespace Sys2Proof.Machine

/-- The meaning of an operation in a state: the next state, or why it does not occur (R10). -/
def exec (i : Instr) (s : State) : Host.Outcome State Fault Refusal :=
  match i with
  | .reset => Sys2Proof.Machine.execReset s
  | .arm => Sys2Proof.Machine.execArm s
  | .edge => Sys2Proof.Machine.execEdge s
  | .shift e => Sys2Proof.Machine.execShift e s
  | .stepStart => Sys2Proof.Machine.execStepStart s
  | .stepAaw => Sys2Proof.Machine.execStepAaw s
  | .stepAacAck => Sys2Proof.Machine.execStepAacAck s
  | .stepAacNack => Sys2Proof.Machine.execStepAacNack s
  | .stepDaw => Sys2Proof.Machine.execStepDaw s
  | .stepDac a => Sys2Proof.Machine.execStepDac a s
  | .stepStop => Sys2Proof.Machine.execStepStop s
  | .inbegin => Sys2Proof.Machine.execInbegin s
  | .inend => Sys2Proof.Machine.execInend s

end Sys2Proof.Machine
end

