-- ==== Sys2Proof/Machine/Fetch.lean ====
section
/-! DEFINITION. How an offer becomes a dispatch word (R76), and the selection that makes a given operation the one that occurs. -/

namespace Sys2Proof.Machine

/-- The dispatch function (R76): the word of an occurring operation. A granted serial-engine request takes `ts` and the ACK sampler's bit. -/
def dispatchWord (ev : Event) (s : State) : Byte :=
  match ev with
  | .reset => evWord 0#3
  | .arm => evWord 1#3
  | .edge => evWord 2#3
  | .shift e => shWord e
  | .step => stWord (ackSample s) s.ts
  | .inbegin => evWord 5#3
  | .inend => evWord 6#3

/-- The event class whose occurrence is this operation (R75). -/
def eventOf : Instr → Event
  | .reset => .reset
  | .arm => .arm
  | .edge => .edge
  | .shift e => .shift e
  | .stepStart => .step
  | .stepAaw => .step
  | .stepAacAck => .step
  | .stepAacNack => .step
  | .stepDaw => .step
  | .stepDac _ => .step
  | .stepStop => .step
  | .inbegin => .inbegin
  | .inend => .inend

/-- The word an event puts before the decoder. A STEP has one only when its request is granted (R76), and a granted request with `ts` at
code 6 or 7 faults before a word is formed (R81). -/
def dispatchEvent (ev : Event) (s : State) : Host.Outcome Byte Fault Refusal :=
  match ev with
  | .step =>
    if seGranted s then
      match TState.ofCode s.ts with
      | none => .fault .illegalState
      | some _ => .next (dispatchWord .step s)
    else .refused .stepNotEnabled
  | ev => .next (dispatchWord ev s)

/-- A word formed for an event offered under a mnemonic stands only if it is of that mnemonic's row (R82; log 14). -/
def assertRow (r : Row) : Host.Outcome Byte Fault Refusal → Host.Outcome Byte Fault Refusal
  | .next dw => if r.hits dw then .next dw else .refused .stepNotSelected
  | .fault f => .fault f
  | .refused why => .refused why

/-- The word an offer puts before the decoder. A resolved mnemonic puts there what its event does, so that STEP.DAC has `a = sr[0]` (R76, R82). -/
def dispatch (o : Offer) (s : State) : Host.Outcome Byte Fault Refusal :=
  match o with
  | .word dw => .next dw
  | .event ev => dispatchEvent ev s
  | .resolved i => assertRow i.row (dispatchEvent (eventOf i) s)

/-- Run the operation a dispatch word names; a word that matches no row is refused by name (R81). -/
def runWord (dw : Byte) (s : State) : Host.Outcome State Fault Refusal :=
  match decode dw with
  | .ok i => exec i s
  | .error why => .refused (.invalidWord why)

/-- Offer one event to the block (R10): form its word, decode it, run it. -/
def offerOne (o : Offer) (s : State) : Host.Outcome State Fault Refusal :=
  match dispatch o s with
  | .next dw => runWord dw s
  | .fault f => .fault f
  | .refused r => .refused r

/-- `sr` with its received bit, `sr[0]`, set to `a` and bits 7 to 1 kept. -/
def withReceivedBit (sr : Byte) (a : Bool) : Byte := sr.extractLsb' 1 7 ++ BitVec.ofBool a

/-- A serial-engine request that the dispatch function turns into a STEP of state `t` (R76, R90). -/
def selectStep (t : TState) (s : State) : State := { s with ts := t.code, seIfg := true, seIe := true }

/-- Make an operation the one this state selects, changing only what its enabling condition reads (log 4). -/
def selectInstr (i : Instr) (s : State) : State :=
  match i with
  | .reset => s
  | .edge => s
  | .arm => { s with ts := TState.start.code, cnt := 0#4 }
  | .shift _ => { s with cnt := if s.cnt = 0#4 then 1#4 else s.cnt }
  | .stepStart => selectStep .start s
  | .stepAaw => selectStep .addrAckWait s
  | .stepAacAck => { selectStep .addrAckCheck s with sr := withReceivedBit s.sr false }
  | .stepAacNack => { selectStep .addrAckCheck s with sr := withReceivedBit s.sr true }
  | .stepDaw => selectStep .dataAckWait s
  | .stepDac a => { selectStep .dataAckCheck s with sr := withReceivedBit s.sr a }
  | .stepStop => selectStep .stop s
  | .inbegin => { s with inIfg := true, inIe := true }
  | .inend => { s with inBusy := true }

/-- Offer a dispatch word next, in a state that selects its operation; a word that matches no row is offered as it is. -/
def offerWord (dw : Byte) (s : State) : State :=
  let t := match decode dw with
    | .ok i => selectInstr i s
    | .error _ => s
  { t with offers := .word dw :: s.offers }

end Sys2Proof.Machine
end

