-- ==== Sys2Proof/Machine/Step.lean ====
section
/-! DEFINITION. One step of the machine: the next offered event occurs, or does not, as its rule says (R10, R60, R82). -/

namespace Sys2Proof.Machine

/-- Take the next offer and run it in the state without it. With nothing offered nothing occurs and the state stays (log 2). -/
def step (s : State) : Host.Outcome State Fault Refusal :=
  match s.offers with
  | [] => .next s
  | o :: rest => offerOne o { s with offers := rest }

/-- The word `w` of `nbits` bits offered as the very next event, in a state that selects its operation (log 4). -/
def State.withFetchWord (s : State) (nbits w : Nat) : State := offerWord (tableWord nbits w) s

end Sys2Proof.Machine
end

