-- ==== Sys2Proof/Machine/Wire.lean ====
section
/-! DEFINITION. Reading a trace (R33, R55): the byte sequence of a run, and the named error conditions as they are recognised in it (R136, R137). -/

namespace Sys2Proof.Machine

/-- The presented bit, where one is driven (R55: "every one of the 8 must have `d` in {0, 1}"). -/
def Drive.bit? : Drive → Option Bool
  | .driven b => some b
  | .z => none

/-- A byte from its bits, the first one bit 7 (R54, R55). -/
def byteOfBits (bits : List Bool) : Byte :=
  bits.foldl (fun acc b => acc.extractLsb' 0 7 ++ BitVec.ofBool b) 0#8

/-- Whether a ninth event is an ack slot, and the level sampled in it (R55: "its `d` must be `Z`"). -/
def ackOfBit : Drive × Bool → Option Bool
  | (.z, s) => some s
  | (.driven _, _) => none

/-- One frame of nine `BIT` events: the byte the master presented and the ack, false = ACK (R55). None where a frame breaks a "must" of R55 (log 19). -/
def frameByte (frame : List (Drive × Bool)) : Option (Byte × Bool) :=
  match (frame.take 8).mapM (fun p => p.1.bit?), (frame.drop 8).head?.bind ackOfBit with
  | some bits, some ack => some (byteOfBits bits, ack)
  | _, _ => none

/-- The scan of R55: whether a transaction is open, the bits buffered so far, and the events still to read. -/
def bytesFrom (inTxn : Bool) (buf : List (Drive × Bool)) : List TraceEvent → Option (List (Byte × Bool))
  | [] => some []
  | .start :: rest => bytesFrom true [] rest
  | .bit d s :: rest =>
    if inTxn then
      let frame := buf ++ [(d, s)]
      if frame.length = 9 then
        match frameByte frame, bytesFrom true [] rest with
        | some b, some bs => some (b :: bs)
        | _, _ => none
      else bytesFrom true frame rest
    else bytesFrom false buf rest
  | .stop :: rest => bytesFrom false [] rest
  | .rst :: rest => bytesFrom false [] rest
  | .wake :: rest => bytesFrom inTxn buf rest
  | .ind _ :: rest => bytesFrom inTxn buf rest

/-- `bytes(tr)` (R55): the transmitted byte sequence of a run, each byte with its ack, false = ACK. -/
def bytes (tr : List TraceEvent) : Option (List (Byte × Bool)) := bytesFrom false [] tr

/-- ADDR_NACK (R136), recognised in the bytes of one transaction: one element, its ack slot sampled 1. -/
def isAddrNack (txn : List (Byte × Bool)) : Bool :=
  match txn with
  | [(_, ack)] => ack
  | _ => false

/-- DATA_NACK (R137), recognised in the bytes of one transaction: the second ack slot sampled 1. -/
def isDataNack (txn : List (Byte × Bool)) : Bool :=
  match txn with
  | [_, (_, ack)] => ack
  | _ => false

end Sys2Proof.Machine
end

