-- ==== Sys2Proof/Machine/Script.lean ====
section
/-! DEFINITION. The event script (R82, R83): its lines, their expansion, running one, and its encoding. -/

namespace Sys2Proof.Machine

/-- A line of an event script (R82), pseudo-events included (R83). -/
inductive Line where
  /-- `RESET`, `ARM`, `EDGE`, `SHIFT e`, `STEP`, `INBEGIN` or `INEND`. -/
  | event (ev : Event)
  /-- A resolved mnemonic, "an assertion that this is the one that runs". -/
  | resolved (i : Instr)
  /-- `SHIFTN n e`. -/
  | shiftN (n : Nat) (e : Bool)
  /-- `XFER8`, an undisturbed driven byte. -/
  | xfer8
  /-- `ACKSLOT a`. -/
  | ackSlot (a : Bool)
  /-- `STOPBIT`. -/
  | stopBit
  /-- `INEVT`, one complete input event. -/
  | inEvt
  /-- `TXN 1`, the address-NACK transaction. -/
  | txnNack
  /-- `TXN 0 a2`, the full transaction. -/
  | txnAck (a2 : Bool)
  deriving DecidableEq, Repr

/-- `SHIFT e` repeated `n` times (R83). -/
def shiftEvents (n : Nat) (e : Bool) : List Event := List.replicate n (.shift e)

/-- `ARM`, `STEP`, `XFER8`, `STEP`, `ACKSLOT a`: the address phase both transactions begin with (R83). -/
def addressPhase (a : Bool) : List Event := [.arm, .step] ++ shiftEvents 8 true ++ [.step, .shift a]

/-- `STEP`, `STOPBIT`, `STEP`: the end both transactions have (R83). -/
def stopPhase : List Event := [.step, .shift true, .step]

/-- `TXN 1` expanded (R83): 15 events. -/
def txnNackEvents : List Event := addressPhase true ++ stopPhase

/-- `TXN 0 a2` expanded (R83): 26 events. -/
def txnAckEvents (a2 : Bool) : List Event :=
  addressPhase false ++ [.step] ++ shiftEvents 8 true ++ [.step, .shift a2] ++ stopPhase

/-- The offers a line stands for (R82, R83). -/
def Line.expand : Line → List Offer
  | .event ev => [.event ev]
  | .resolved i => [.resolved i]
  | .shiftN n e => (shiftEvents n e).map .event
  | .xfer8 => (shiftEvents 8 true).map .event
  | .ackSlot a => [.event (.shift a)]
  | .stopBit => [.event (.shift true)]
  | .inEvt => [.event .edge, .event .inbegin, .event .inend]
  | .txnNack => txnNackEvents.map .event
  | .txnAck a2 => (txnAckEvents a2).map .event

/-- The offers of a script, in order (R82). -/
def expandScript (script : List Line) : List Offer := script.flatMap Line.expand

/-- Offer a list of events one after another; the first that does not occur ends the run (R60, R82). -/
def runOffers : List Offer → State → Host.Outcome State Fault Refusal
  | [], s => .next s
  | o :: rest, s =>
    match offerOne o s with
    | .next t => runOffers rest t
    | .fault f => .fault f
    | .refused r => .refused r

/-- A script is well formed in a state when every event of it is enabled or admitted where it is offered (R82). -/
def scriptWellFormed (script : List Line) (s : State) : Bool :=
  match runOffers (expandScript script) s with
  | .next _ => true
  | .fault _ => false
  | .refused _ => false

/-- The operation an offer makes occur in this state and the state after it; none where nothing occurs (R10). -/
def occurrence (o : Offer) (s : State) : Option (Instr × State) :=
  match dispatch o s with
  | .next dw =>
    match decode dw with
    | .ok i =>
      match exec i s with
      | .next t => some (i, t)
      | .fault _ => none
      | .refused _ => none
    | .error _ => none
  | .fault _ => none
  | .refused _ => none

/-- The dispatch words of the operations that a list of offers makes occur, each computed by R76 in the state where it occurs (R82). None
where one does not occur. -/
def encodeOffers : List Offer → State → Option (List Byte)
  | [], _ => some []
  | o :: rest, s =>
    match occurrence o s with
    | some (i, t) => (encodeOffers rest t).map (dispatchWord (eventOf i) s :: ·)
    | none => none

/-- The encoding of a script (R82). None where the script is not well formed. -/
def encodeScript (script : List Line) (s : State) : Option (List Byte) := encodeOffers (expandScript script) s

/-- Run a list of operations, each as its rule says; the first that does not occur ends the run. -/
def runInstrs : List Instr → State → Host.Outcome State Fault Refusal
  | [], s => .next s
  | i :: rest, s =>
    match exec i s with
    | .next t => runInstrs rest t
    | .fault f => .fault f
    | .refused r => .refused r

end Sys2Proof.Machine
end

