-- ==== Sys2Proof/Safety.lean ====
section
/-! DEFINITION. What claims speak of: the classes of operations, enabling, the invariants of R37, quiescence (R129), executions and the fairness premise (R181). -/

namespace Sys2Proof.Machine

/-- The seven STEP operations (R73). -/
def isStep : Instr → Bool
  | .reset => false
  | .arm => false
  | .edge => false
  | .shift _ => false
  | .stepStart => true
  | .stepAaw => true
  | .stepAacAck => true
  | .stepAacNack => true
  | .stepDaw => true
  | .stepDac _ => true
  | .stepStop => true
  | .inbegin => false
  | .inend => false

/-- A SHIFT, with either operand. -/
def isShift : Instr → Bool
  | .reset => false
  | .arm => false
  | .edge => false
  | .shift _ => true
  | .stepStart => false
  | .stepAaw => false
  | .stepAacAck => false
  | .stepAacNack => false
  | .stepDaw => false
  | .stepDac _ => false
  | .stepStop => false
  | .inbegin => false
  | .inend => false

/-- The internal operations: SHIFT, STEP, INBEGIN, INEND (R10 b). The others are events of the host or the environment. -/
def isInternal (i : Instr) : Bool := isShift i || isStep i || i == .inbegin || i == .inend

/-- The operation occurs in this state: it is enabled, or admitted (R10 a). -/
def enabled (i : Instr) (s : State) : Prop := ∃ t, exec i s = .next t

/-- The STEP that a state selects: by `ts` and, in the check states, by the received bit (R76, R90). -/
def selectedStep (s : State) : Option Instr :=
  match TState.ofCode s.ts with
  | none => none
  | some .start => some .stepStart
  | some .addrAckWait => some .stepAaw
  | some .addrAckCheck => some (if receivedBit s then .stepAacNack else .stepAacAck)
  | some .dataAckWait => some .stepDaw
  | some .dataAckCheck => some (.stepDac (receivedBit s))
  | some .stop => some .stepStop

/-- The idle state of the glossary: `ts = Start`, `cnt = 0`, `se_ifg = 0` (R12). -/
def idle (s : State) : Prop := s.ts = TState.start.code ∧ s.cnt = 0#4 ∧ s.seIfg = false

/-- Quiescent: no internal operation is enabled, the end of a run (R129). -/
def quiescent (s : State) : Prop :=
  s.ts = TState.start.code ∧ s.cnt = 0#4 ∧ s.seIfg = false ∧ s.inIfg = false ∧ s.inBusy = false

/-- The invariants of R37, item by item. I2 holds by the width of `data`; I8 is a fact about runs, not about one state. I9 is stated in
the form a step keeps (`sr = 0x00` in all of Stop), and `live` is what R129 needs beside them (log 20). -/
structure Invariants (s : State) : Prop where
  /-- I1. -/
  legalState : ∃ t : TState, s.ts = t.code
  /-- I2. -/
  dataBound : s.data.toNat ≤ 15
  /-- I3. -/
  cntBound : s.cnt.toNat ≤ 8
  /-- I4. -/
  passThroughOff : s.ge = false
  /-- I5. -/
  requestOnlyWhenDone : s.seIfg = true → s.cnt = 0#4
  /-- I6, first half. -/
  busyIffSeOff : s.inBusy = true ↔ s.seIe = false
  /-- I6, second half. -/
  busyIffInOff : s.inBusy = true ↔ s.inIe = false
  /-- I7. -/
  idleReleased : s.ts = TState.start.code → s.seIfg = false → s.cnt = 0#4 ∧ s.oe = false
  /-- I9. -/
  stopDrivesLow : s.ts = TState.stop.code → s.oe = true ∧ s.sr = 0x00#8
  /-- I10, first half. -/
  checkReleased : s.ts = TState.addrAckCheck.code ∨ s.ts = TState.dataAckCheck.code → s.oe = false
  /-- I10, second half. -/
  waitDriven : s.ts = TState.addrAckWait.code ∨ s.ts = TState.dataAckWait.code ∨ s.ts = TState.stop.code → s.oe = true
  /-- I11. -/
  indicatorIffBusy : s.ind = false ↔ s.inBusy = true
  /-- Outside Start a transfer is pending or its completion is flagged. -/
  live : s.ts ≠ TState.start.code → s.cnt ≠ 0#4 ∨ s.seIfg = true

/-- An execution: at every index either nothing occurs or one operation does, as its rule says (R9, R60). -/
def IsExecution (st : Nat → State) (op : Nat → Option Instr) : Prop :=
  ∀ n, match op n with
    | none => st (n + 1) = st n
    | some i => exec i (st n) = .next (st (n + 1))

/-- Weak fairness of one class of operations: a class enabled from some index on occurs after it (R181). -/
def WeaklyFair (cls : Instr → Bool) (st : Nat → State) (op : Nat → Option Instr) : Prop :=
  ∀ n, (∀ m, n ≤ m → ∃ i, cls i = true ∧ enabled i (st m)) → ∃ m, n ≤ m ∧ ∃ i, op m = some i ∧ cls i = true

/-- `FAIR_ENGINE` (R181): "weak fairness of the four internal operations". -/
structure FairEngine (st : Nat → State) (op : Nat → Option Instr) : Prop where
  shift : WeaklyFair isShift st op
  step : WeaklyFair isStep st op
  inbegin : WeaklyFair (· == .inbegin) st op
  inend : WeaklyFair (· == .inend) st op

/-- How many operations of a class a list holds. -/
def countOps (cls : Instr → Bool) (ops : List Instr) : Nat := ops.countP cls

/-- The SHIFTs of one transfer, one for each bit the environment contributes (R105). -/
def shifts (es : List Bool) : List Instr := es.map .shift

/-- The wire events of a driven byte, most significant bit first, against the environment's bits `es` (R53, R54). -/
def drivenBits (b : Byte) (es : List Bool) : List TraceEvent :=
  es.zipIdx.map fun p => .bit (.driven (b.getLsbD (7 - p.2))) (b.getLsbD (7 - p.2) && p.1)

/-- The operations of a transaction whose address is acknowledged: 6 STEPs and 8, 1, 8, 1, 1 SHIFTs (R98). `addr`, `dat` and `last` are
the environment's bits against driven bits, `a2` the slave's bit in the data ack slot. -/
def ackPath (addr dat : List Bool) (a2 last : Bool) : List Instr :=
  .stepStart :: shifts addr ++ .stepAaw :: .shift false :: .stepAacAck :: shifts dat ++
    [.stepDaw, .shift a2, .stepDac a2, .shift last, .stepStop]

/-- The operations of a transaction whose address is not acknowledged: 4 STEPs and 8, 1, 1 SHIFTs (R98). -/
def nackPath (addr : List Bool) (last : Bool) : List Instr :=
  .stepStart :: shifts addr ++ [.stepAaw, .shift true, .stepAacNack, .shift last, .stepStop]

end Sys2Proof.Machine
end

