-- ==== Sys2Proof/Certificates/Slice0/Obligations.lean ====
section
/-! DEFINITION. The statements for the provers, family by family. Each docstring names the rule or the section it formalises, and what in it is a decision of the spec or a choice of the model. -/

open Sys2Proof Sys2Proof.Machine

/-! ### Encoding (30_encoding.md) -/

/-- Sanity: words written out from the table of R80 (V-table 2.1) decode to their operations, and one word of each rejected kind of R81 is
rejected by its reason. The encoding is the spec's decision D18. -/
def Obligations.TableWordsDecode : Prop :=
  decode 0x00#8 = .ok .reset ∧ decode 0x1F#8 = .ok .reset ∧ decode 0x20#8 = .ok .arm ∧
  decode 0x40#8 = .ok .edge ∧ decode 0x60#8 = .ok (.shift false) ∧ decode 0x7F#8 = .ok (.shift true) ∧
  decode 0x80#8 = .ok .stepStart ∧ decode 0x92#8 = .ok .stepAacNack ∧ decode 0x84#8 = .ok (.stepDac false) ∧
  decode 0x94#8 = .ok (.stepDac true) ∧ decode 0xA0#8 = .ok .inbegin ∧ decode 0xC0#8 = .ok .inend ∧
  decode 0xE0#8 = .error .noEvent ∧ decode 0x88#8 = .error .bit3Set ∧ decode 0x87#8 = .error .noStateCode ∧
  decode 0x93#8 = .error .sampledBitWithoutSampler

/-- Decode and encode agree on every well-formed operation with every operand, and on every word: the word of an operation is canonical and
decodes to it, and a word that decodes to an operation has that operation's word once the bits its format ignores are cleared: bits 4 to 0
of an EV word, bits 3 to 0 of an SH word, none of an ST word (R70, R80; decision D18). -/
def Obligations.EncodeDecodeRoundTrip : Prop :=
  (∀ i : Instr, i.wf = true → decode (encode i) = .ok i ∧ canonicalWord (encode i) = true) ∧
  (∀ (dw : Byte) (i : Instr), decode dw = .ok i →
    encode i = if isStep i then dw else if isShift i then dw &&& 0xF0#8 else dw &&& 0xE0#8)

/-- The decoder agrees with the opcode map row for row: a word that decodes to an operation matches that operation's row and no other, and a
word that matches a row of the map decodes to an operation of that row (R80; decision D18). -/
def Obligations.DecodeAgreesWithOpcodeMap : Prop :=
  (∀ (dw : Byte) (i : Instr), decode dw = .ok i → ∀ r ∈ opcodeRows, (r.hits dw = true ↔ r = i.row)) ∧
  (∀ (dw : Byte) (r : Row), r ∈ opcodeRows → r.hits dw = true → ∃ i, decode dw = .ok i ∧ i.row = r)

/-- The words the decoder rejects are exactly those R81 lists (decision D18, D23). -/
def Obligations.RejectedWordsAreTheListedOnes : Prop :=
  ∀ dw : Byte, (∃ why, decode dw = .error why) ↔
    0xE0 ≤ dw.toNat ∨ dw ∈ [0x86#8, 0x87#8, 0x96#8, 0x97#8] ∨ (0x88 ≤ dw.toNat ∧ dw.toNat ≤ 0x8F) ∨
    (0x98 ≤ dw.toNat ∧ dw.toNat ≤ 0x9F) ∨ dw ∈ [0x90#8, 0x91#8, 0x93#8, 0x95#8]

/-! ### Dispatch and the step -/

/-- A step runs the decoded operation: when the next offer has a dispatch word and the word decodes to `i`, the step is `exec i` in the state
without that offer. The list of offers is the model's own (log 1). -/
def Obligations.StepRunsDecodedInstruction : Prop :=
  ∀ (s : State) (o : Offer) (rest : List Offer) (dw : Byte) (i : Instr),
    s.offers = o :: rest → dispatch o { s with offers := rest } = .next dw → decode dw = .ok i →
    step s = exec i { s with offers := rest }

/-- What a step does when no operation runs: with nothing offered the state stays (the model's choice, log 2); a word that decodes to nothing is
refused with the decoder's reason (R81); what the dispatch refuses or faults on, the step refuses or faults on. -/
def Obligations.StepWithoutAnOperation : Prop :=
  (∀ s : State, s.offers = [] → step s = .next s) ∧
  (∀ (s : State) (o : Offer) (rest : List Offer) (dw : Byte) (why : DecodeError),
    s.offers = o :: rest → dispatch o { s with offers := rest } = .next dw → decode dw = .error why →
    step s = .refused (.invalidWord why)) ∧
  (∀ (s : State) (o : Offer) (rest : List Offer) (r : Refusal),
    s.offers = o :: rest → dispatch o { s with offers := rest } = .refused r → step s = .refused r) ∧
  (∀ (s : State) (o : Offer) (rest : List Offer) (f : Fault),
    s.offers = o :: rest → dispatch o { s with offers := rest } = .fault f → step s = .fault f)

/-- A step consumes exactly one offer: no operation, RESET among them, adds, drops or reorders the events still to come (log 1). -/
def Obligations.StepConsumesOneOffer : Prop :=
  ∀ s t : State, step s = .next t → t.offers = s.offers.tail

/-- The dispatch function (R76): an offered event of every class but STEP is its operation; a ready serial-engine request is the STEP that `ts`
selects and, in AddrAckCheck, the sampled bit `sr[0]`; each puts before the decoder the word of that operation, STEP.DAC's word carrying `sr[0]`. With ARB = any (R142) ready is granted. -/
def Obligations.EventsDispatchToTheirOperations : Prop :=
  (∀ s : State, offerOne (.event .reset) s = exec .reset s ∧ offerOne (.event .arm) s = exec .arm s ∧
    offerOne (.event .edge) s = exec .edge s ∧ (∀ e, offerOne (.event (.shift e)) s = exec (.shift e) s) ∧
    offerOne (.event .inbegin) s = exec .inbegin s ∧ offerOne (.event .inend) s = exec .inend s) ∧
  (∀ s : State, s.seIfg = true → s.seIe = true →
    (s.ts = 0#3 → offerOne (.event .step) s = exec .stepStart s) ∧
    (s.ts = 1#3 → offerOne (.event .step) s = exec .stepAaw s) ∧
    (s.ts = 2#3 → s.sr.getLsbD 0 = false → offerOne (.event .step) s = exec .stepAacAck s) ∧
    (s.ts = 2#3 → s.sr.getLsbD 0 = true → offerOne (.event .step) s = exec .stepAacNack s) ∧
    (s.ts = 3#3 → offerOne (.event .step) s = exec .stepDaw s) ∧
    (s.ts = 4#3 → dispatch (.event .step) s = .next (encode (.stepDac (s.sr.getLsbD 0))) ∧
      offerOne (.event .step) s = exec (.stepDac (s.sr.getLsbD 0)) s) ∧
    (s.ts = 5#3 → offerOne (.event .step) s = exec .stepStop s) ∧
    (∀ i, selectedStep s = some i → dispatch (.event .step) s = .next (encode i))) ∧
  (∀ (i : Instr) (s : State), isStep i = false → dispatch (.event (eventOf i)) s = .next (encode i))

/-- The dispatch function never produces a rejected word in a state that meets the invariants (R81), so in such a state an offered event is
never refused as an invalid word and no step faults. -/
def Obligations.InvariantsExcludeInvalidWordsAndFaults : Prop :=
  ∀ s : State, Invariants s →
    (∀ (ev : Event) (dw : Byte), dispatch (.event ev) s = .next dw → ∃ i, decode dw = .ok i) ∧
    (∀ (i : Instr) (f : Fault), exec i s ≠ .fault f) ∧ (∀ f : Fault, step s ≠ .fault f)

/-- The encoding of an event script (R82, R76; decision D19): a script is well formed exactly when it has an encoding, each word of which is what
R76 gives for the operation its event is decoded to, in the state where that occurs; a resolved STEP occurs exactly when the offered STEP does
and is of that mnemonic, with the same word and the same next state; and a resolved STEP.DAC has the word of the state's own sampled bit, whatever bit it is written with (log 13). -/
def Obligations.ScriptWordsAreTheDispatchFunctions : Prop :=
  (∀ (o : Offer) (rest : List Offer) (s : State) (ws : List Byte), encodeOffers (o :: rest) s = some ws →
    ∃ dw i t ws', dispatch o s = .next dw ∧ decode dw = .ok i ∧ exec i s = .next t ∧ offerOne o s = .next t ∧ ws = dispatchWord (eventOf i) s :: ws' ∧
      encodeOffers rest t = some ws') ∧
  (∀ (script : List Line) (s : State), scriptWellFormed script s = true ↔ ∃ ws, encodeScript script s = some ws) ∧
  (∀ (i : Instr) (s : State) (dw : Byte), isStep i = true →
    (dispatch (.resolved i) s = .next dw ↔ dispatch (.event .step) s = .next dw ∧ i.row.hits dw = true)) ∧
  (∀ (i : Instr) (s t : State), isStep i = true →
    (offerOne (.resolved i) s = .next t ↔
      offerOne (.event .step) s = .next t ∧ i.row.hits (dispatchWord .step s) = true)) ∧
  (∀ (s : State) (a : Bool), s.ts = 4#3 → s.seIfg = true → s.seIe = true →
    encodeScript [.resolved (.stepDac a)] s = some [if s.sr.getLsbD 0 then 0x94#8 else 0x84#8])

/-- A word placed for the next step runs: for every operation, whatever the state, the step after `withFetchWord` answers the next state of
that operation in a state that differs from `s` only in what the operation's enabling condition reads (the model's own, log 4). -/
def Obligations.PlacedWordRunsItsOperation : Prop :=
  ∀ (s : State) (i : Instr), ∃ t, step (s.withFetchWord 8 (encode i).toNat) = .next t ∧ exec i (selectInstr i s) = .next t

/-! ### The TSM family (40_transaction_fsm.md) -/

/-- STEP.START, whole next state and enabling (R91, with R90, R110). The order of the micro-steps is decision D11, the clearing of `se_ifg`
decision D12, the word decision D18; ready is granted under ARB = any (R142). -/
def Obligations.StepStartResult : Prop :=
  encode .stepStart = 0x80#8 ∧
  ∀ s : State,
    (enabled .stepStart s ↔ s.seIfg = true ∧ s.seIe = true ∧ s.ts = 0#3) ∧
    (s.seIfg = true → s.seIe = true → s.ts = 0#3 →
      exec .stepStart s = .next { s with
        ts := 1#3, sr := 0x90#8, cnt := 8#4, oe := true, ge := false, seIfg := false, tr := s.tr ++ [.start] })

/-- STEP.AAW, whole next state and enabling, and what the ack slot's SHIFT then leaves in `sr` (R92, with R90). The clearing of `se_ifg` is
also R145 (decision D12), the word also R80 (decision D18); ready is granted under ARB = any (R142). -/
def Obligations.StepAawResult : Prop :=
  encode .stepAaw = 0x81#8 ∧
  ∀ s : State,
    (enabled .stepAaw s ↔ s.seIfg = true ∧ s.seIe = true ∧ s.ts = 1#3) ∧
    (s.seIfg = true → s.seIe = true → s.ts = 1#3 →
      exec .stepAaw s = .next { s with ts := 2#3, cnt := 1#4, oe := false, seIfg := false }) ∧
    (∀ (t u : State) (e : Bool), exec .stepAaw s = .next t → exec (.shift e) t = .next u →
      u.sr = BitVec.ofNat 8 (s.sr.toNat * 2 % 256 + e.toNat) ∧ u.sr.getLsbD 0 = e)

/-- STEP.AAC.ACK, whole next state and enabling: `data`, as it is at this step, zero-extended to eight bits (R93, with R78, R90). The clearing
of `se_ifg` is also R145 (decision D12), the zero extension decision D30; ready is granted under ARB = any (R142). -/
def Obligations.StepAacAckResult : Prop :=
  encode .stepAacAck = 0x82#8 ∧
  ∀ s : State,
    (enabled .stepAacAck s ↔ s.seIfg = true ∧ s.seIe = true ∧ s.ts = 2#3 ∧ s.sr.getLsbD 0 = false) ∧
    (s.seIfg = true → s.seIe = true → s.ts = 2#3 → s.sr.getLsbD 0 = false →
      exec .stepAacAck s = .next { s with
        ts := 3#3, sr := BitVec.ofNat 8 s.data.toNat, cnt := 8#4, oe := true, seIfg := false })

/-- STEP.AAC.NACK, whole next state and enabling: the data phase is skipped, nothing records it, `data` is unchanged (R94, with R90). The
clearing of `se_ifg` is also R145 (decision D12); ready is granted under ARB = any (R142). -/
def Obligations.StepAacNackResult : Prop :=
  encode .stepAacNack = 0x92#8 ∧
  ∀ s : State,
    (enabled .stepAacNack s ↔ s.seIfg = true ∧ s.seIe = true ∧ s.ts = 2#3 ∧ s.sr.getLsbD 0 = true) ∧
    (s.seIfg = true → s.seIe = true → s.ts = 2#3 → s.sr.getLsbD 0 = true →
      exec .stepAacNack s = .next { s with ts := 5#3, sr := 0x00#8, cnt := 1#4, oe := true, seIfg := false })

/-- STEP.DAW, whole next state and enabling, and what the ack slot's SHIFT then leaves in `sr` (R95, with R92, R90). The clearing of `se_ifg`
is also R145 (decision D12); ready is granted under ARB = any (R142). -/
def Obligations.StepDawResult : Prop :=
  encode .stepDaw = 0x83#8 ∧
  ∀ s : State,
    (enabled .stepDaw s ↔ s.seIfg = true ∧ s.seIe = true ∧ s.ts = 3#3) ∧
    (s.seIfg = true → s.seIe = true → s.ts = 3#3 →
      exec .stepDaw s = .next { s with ts := 4#3, cnt := 1#4, oe := false, seIfg := false }) ∧
    (∀ (t u : State) (e : Bool), exec .stepDaw s = .next t → exec (.shift e) t = .next u →
      u.sr = BitVec.ofNat 8 (s.sr.toNat * 2 % 256 + e.toNat) ∧ u.sr.getLsbD 0 = e)

/-- STEP.DAC, whole next state, enabling and word: the next state is the same for both sampled bits, and the same as STEP.AAC.NACK makes
from AddrAckCheck (R96, with R90). That the word's own bit `a` is not compared with `sr[0]` is the model's choice (log 13). The clearing of `se_ifg` is also R145 (decision D12); ready is granted under ARB = any (R142). -/
def Obligations.StepDacResult : Prop :=
  encode (.stepDac false) = 0x84#8 ∧ encode (.stepDac true) = 0x94#8 ∧
  ∀ (s : State) (a : Bool),
    (enabled (.stepDac a) s ↔ s.seIfg = true ∧ s.seIe = true ∧ s.ts = 4#3) ∧
    (s.ts = 4#3 → dispatchWord .step s = encode (.stepDac (s.sr.getLsbD 0))) ∧
    (s.seIfg = true → s.seIe = true → s.ts = 4#3 →
      exec (.stepDac a) s = .next { s with ts := 5#3, sr := 0x00#8, cnt := 1#4, oe := true, seIfg := false } ∧
      (s.sr.getLsbD 0 = true → exec .stepAacNack { s with ts := 2#3 } = exec (.stepDac a) s))

/-- STEP.STOP, whole next state and enabling: STOP then WAKE, bus released, back to Start, and neither a STEP nor a SHIFT enabled afterwards
when no transfer is pending (R97, with R90, R111, R127). The value 0xFF and the inner order are decision D11, the clearing of `se_ifg`
decision D12, WAKE decision D17; ready is granted under ARB = any (R142). -/
def Obligations.StepStopResult : Prop :=
  encode .stepStop = 0x85#8 ∧
  ∀ s : State,
    (enabled .stepStop s ↔ s.seIfg = true ∧ s.seIe = true ∧ s.ts = 5#3) ∧
    (s.seIfg = true → s.seIe = true → s.ts = 5#3 →
      ∃ t, exec .stepStop s = .next t ∧
        t = { s with
          ts := 0#3, sr := 0xFF#8, oe := false, ge := false, seIfg := false, tr := s.tr ++ [.stop, .wake] } ∧
        (∀ i, isStep i = true → ¬ enabled i t) ∧ (s.cnt = 0#4 → ∀ e, ¬ enabled (.shift e) t))

/-- Where a STEP does not occur (R90, R10, R81): without a ready request it is refused as not enabled; with `ts` at code 6 or 7 it faults
(decision D23); with another STEP selected it is refused as not selected. The outcomes' names are the model's (log 3, log 14). -/
def Obligations.StepsThatDoNotOccur : Prop :=
  ∀ (s : State) (i : Instr), isStep i = true →
    (¬ (s.seIfg = true ∧ s.seIe = true) → exec i s = .refused .stepNotEnabled) ∧
    (s.seIfg = true → s.seIe = true → s.ts = 6#3 ∨ s.ts = 7#3 →
      exec i s = .fault .illegalState ∧ offerOne (.event .step) s = .fault .illegalState) ∧
    (∀ j, s.seIfg = true → s.seIe = true → selectedStep s = some j → i.row ≠ j.row → exec i s = .refused .stepNotSelected)

/-- The transition relation of `ts` (R98): the only transitions are the seven of the table, on one bit in AddrAckCheck, and RESET to Start. -/
def Obligations.StateTransitionRelation : Prop :=
  ∀ (i : Instr) (s t : State), exec i s = .next t → t.ts ≠ s.ts →
    (i = .reset ∧ t.ts = 0#3) ∨ (i = .stepStart ∧ s.ts = 0#3 ∧ t.ts = 1#3) ∨ (i = .stepAaw ∧ s.ts = 1#3 ∧ t.ts = 2#3) ∨
    (i = .stepAacAck ∧ s.ts = 2#3 ∧ s.sr.getLsbD 0 = false ∧ t.ts = 3#3) ∨
    (i = .stepAacNack ∧ s.ts = 2#3 ∧ s.sr.getLsbD 0 = true ∧ t.ts = 5#3) ∨
    (i = .stepDaw ∧ s.ts = 3#3 ∧ t.ts = 4#3) ∨ ((∃ a, i = .stepDac a) ∧ s.ts = 4#3 ∧ t.ts = 5#3) ∨
    (i = .stepStop ∧ s.ts = 5#3 ∧ t.ts = 0#3)

/-- One step per interrupt (R99): `ts` changes only in a STEP or RESET; a STEP changes it; after a STEP no second STEP occurs until the flag is
set anew, and only the completion of a transfer or ARM sets it. What sets and clears the flag is decision D12 (log 18); that a STEP without a
request is refused by name is the model's outcome for what R10 says cannot occur (log 3). -/
def Obligations.OneStepPerInterrupt : Prop :=
  ∀ (i : Instr) (s t : State), exec i s = .next t →
    (t.ts ≠ s.ts → isStep i = true ∨ i = .reset) ∧
    (isStep i = true → t.ts ≠ s.ts ∧ t.seIfg = false ∧ ∀ j, isStep j = true → exec j t = .refused .stepNotEnabled) ∧
    (s.seIfg = false → t.seIfg = true → i = .arm ∧ s.ts = 0#3 ∨ (∃ e, i = .shift e) ∧ t.cnt = 0#4)

/-! ### The serial engine (41_serial_engine.md) -/

/-- SHIFT, whole next state (R105, R106, R53, R52; decisions D8, D9, D12, D34): enabled by `cnt > 0` alone, whatever the enables. The
refusal at `cnt = 0` is the model's outcome for what R10 says cannot occur (log 3). -/
def Obligations.ShiftResult : Prop :=
  encode (.shift false) = 0x60#8 ∧ encode (.shift true) = 0x70#8 ∧
  ∀ (s : State) (e : Bool),
    (s.cnt = 0#4 → exec (.shift e) s = .refused .shiftNotEnabled) ∧
    (s.cnt ≠ 0#4 → ∃ (d : Drive) (level : Bool),
      (s.oe = true → d = .driven (s.sr.getLsbD 7) ∧ level = (s.sr.getLsbD 7 && e)) ∧
      (s.oe = false → d = .z ∧ level = e) ∧
      exec (.shift e) s = .next { s with
        sr := BitVec.ofNat 8 (s.sr.toNat * 2 % 256 + level.toNat), cnt := BitVec.ofNat 4 (s.cnt.toNat - 1),
        seIfg := s.seIfg || decide (s.cnt = 1#4), tr := s.tr ++ [.bit d level] })

/-- A driven byte goes out most significant bit first, whatever the environment does to the line: the eight events present bits 7 to 0 of the
byte loaded, and the transfer completes with its request pending. Nobody pulling the line leaves the byte in `sr` (R54, R105, R106). -/
def Obligations.ByteGoesOutMostSignificantFirst : Prop :=
  ∀ (s : State) (es : List Bool), es.length = 8 → s.oe = true → s.cnt = 8#4 →
    ∃ t, runInstrs (shifts es) s = .next t ∧ t.cnt = 0#4 ∧ t.seIfg = true ∧
      t.tr = s.tr ++ drivenBits s.sr es ∧ (es = List.replicate 8 true → t.sr = s.sr) ∧
      t = { s with sr := t.sr, cnt := 0#4, seIfg := true, tr := s.tr ++ drivenBits s.sr es }

/-- Nothing in the block reacts to what the environment does to a driven bit: the two next states differ in `sr` and in the trace only, and a
driven 0 is sampled 0 whatever the environment does (R53). -/
def Obligations.DrivenBitContentionIsUnnoticed : Prop :=
  ∀ s : State, s.oe = true → s.cnt ≠ 0#4 →
    ∃ t u, exec (.shift true) s = .next t ∧ exec (.shift false) s = .next u ∧
      t = { u with sr := t.sr, tr := t.tr } ∧
      (s.sr.getLsbD 7 = false → t = u ∧ t.tr = s.tr ++ [.bit (.driven false) false])

/-- The master's drive of the data line, port `sda_o` (R109, R34, R25; decisions D11, D21): through the pass-through it is `sr[7]` at once; with
the pass-through off it looks at neither `sr` nor `cnt`, a SHIFT makes it what that SHIFT presents, STEP.START leaves it low until the first
SHIFT, STEP.STOP and RESET release it, STEP.AAW and STEP.DAW release it by clearing the output enable, and every other operation leaves it where it was
unless it sets the output enable, when it is the bit last presented. What a change of the output enable does at once is the model's reading of
what R64 leaves open (log 26). -/
def Obligations.DriveFollowsShiftPassThroughOutputEnableAndReset : Prop :=
  (∀ s : State, s.ge = true → s.oe = true → sdaDrive s = .driven (s.sr.getLsbD 7)) ∧
  (∀ s : State, s.oe = false → sdaDrive s = .z) ∧
  (∀ (s : State) (sr : Byte) (cnt : Nibble), s.ge = false → sdaDrive { s with sr := sr, cnt := cnt } = sdaDrive s) ∧
  ∀ (i : Instr) (s t : State), s.ge = false → exec i s = .next t →
    (isShift i = true → sdaDrive t = presented s) ∧
    (i = .stepStart → sdaDrive t = .driven false ∧ sdaPulledLow t = true) ∧
    (i = .stepStop ∨ i = .reset ∨ i = .stepAaw ∨ i = .stepDaw → sdaDrive t = .z) ∧
    (isShift i = false → i ≠ .stepStart → i ≠ .stepStop → i ≠ .reset →
      (t.oe = s.oe → sdaDrive t = sdaDrive s) ∧ (t.oe = true → sdaDrive t = presentedBit s.tr))

/-! ### The input path (42_input_event.md) -/

/-- EDGE, whole next state: enabled always, the flag set whatever the enable and the busy bit, nothing else changed (R115; decision D24). -/
def Obligations.EdgeResult : Prop :=
  encode .edge = 0x40#8 ∧ ∀ s : State, exec .edge s = .next { s with inIfg := true }

/-- INBEGIN, whole next state and enabling (R116, R120): refused when not enabled, the model's outcome for what R10 says cannot occur (log 3),
and never a re-entry in a state that meets the invariants. Ready is granted under ARB = any (R142). -/
def Obligations.InbeginResult : Prop :=
  encode .inbegin = 0xA0#8 ∧
  ∀ s : State,
    (s.inIfg = true → s.inIe = true → exec .inbegin s = .next { s with
      seIe := false, inIe := false, data := BitVec.ofNat 4 ((s.data.toNat + 1) % 16), ind := false, inBusy := true,
      tr := s.tr ++ [.ind false] }) ∧
    (¬ (s.inIfg = true ∧ s.inIe = true) → exec .inbegin s = .refused .inbeginNotEnabled) ∧
    (Invariants s → s.inIe = true → s.inBusy = false)

/-- INEND, whole next state and enabling (R117; the order of the re-enables is decision D26): the flag is cleared whether or not it was set again.
The refusal outside the hold is the model's outcome for what R10 says cannot occur (log 3). -/
def Obligations.InendResult : Prop :=
  encode .inend = 0xC0#8 ∧
  ∀ s : State,
    (s.inBusy = true → exec .inend s = .next { s with
      ind := true, inIfg := false, inIe := true, seIe := true, inBusy := false, tr := s.tr ++ [.ind true] }) ∧
    (s.inBusy = false → exec .inend s = .refused .inendNotEnabled)

/-- The increment, exactly (R120): 0 to 14 go to 1 to 15 and 15 to 0, only INBEGIN counts (RESET loads), and over any number of complete input
events the value advances by that number modulo 16. -/
def Obligations.DataIncrementsModuloSixteen : Prop :=
  (∀ s t : State, exec .inbegin s = .next t →
    (s.data.toNat ≤ 14 → t.data.toNat = s.data.toNat + 1) ∧ (s.data = 15#4 → t.data = 0#4)) ∧
  (∀ (i : Instr) (s t : State), exec i s = .next t → i ≠ .inbegin → i ≠ .reset → t.data = s.data) ∧
  (∀ (n : Nat) (s : State), s.inIe = true →
    ∃ t, runInstrs (List.replicate n [Instr.edge, .inbegin, .inend]).flatten s = .next t ∧
      t.data.toNat = (s.data.toNat + n) % 16)

/-- Lost and merged edges (R118): whatever EDGEs and SHIFTs occur during the hold, the service ends with no edge pending, the enables on and
`data` one higher, so that no second service follows; and two EDGEs before a service are one. The refusal of that second INBEGIN is the
model's outcome for what R10 says cannot occur (log 3). -/
def Obligations.EdgesAreLostOrMerged : Prop :=
  (∀ (s t u : State) (hold : List Instr), exec .inbegin s = .next t →
    (∀ i ∈ hold, i = .edge ∨ isShift i = true) → runInstrs hold t = .next u →
    ∃ v, exec .inend u = .next v ∧ v.data = s.data + 1#4 ∧ v.inIfg = false ∧ v.inIe = true ∧ v.seIe = true ∧
      v.inBusy = false ∧ exec .inbegin v = .refused .inbeginNotEnabled) ∧
  (∀ s t : State, exec .edge s = .next t → exec .edge t = .next t)

/-- No preemption and no nesting (R143): from INBEGIN to INEND, whatever occurs between them but RESET, no STEP and no INBEGIN occurs; a
serial-engine request that is or becomes pending is still pending after INEND, then ready, and an input edge is lost there; a STEP, which is
one operation, loses no input edge. The two refusals are the model's outcomes for what R143 and R10 say is not enabled (log 3). -/
def Obligations.HoldExcludesBothHandlers : Prop :=
  (∀ (s t u : State) (hold : List Instr), exec .inbegin s = .next t →
    (∀ i ∈ hold, i ≠ .reset ∧ i ≠ .inend) → runInstrs hold t = .next u →
    u.inBusy = true ∧ (∀ i, isStep i = true → exec i u = .refused .stepNotEnabled) ∧
    exec .inbegin u = .refused .inbeginNotEnabled ∧
    ∃ v, exec .inend u = .next v ∧ v.seIe = true ∧ v.seIfg = u.seIfg ∧ v.inIfg = false ∧
      (s.seIfg = true → u.seIfg = true)) ∧
  (∀ (i : Instr) (s t : State), isStep i = true → exec i s = .next t → t.inIfg = s.inIfg ∧ t.inIe = s.inIe)

/-! ### The host (43_host_interface.md) -/

/-- RESET, whole next state, admitted in every state (R125, R38; the reset values are decisions D4, D6, D7, D13, D32). The new `sr` is the
draw the model takes from its free value (log 6): the statement holds for every value of it. -/
def Obligations.ResetResult : Prop :=
  encode .reset = 0x00#8 ∧
  ∀ s : State, ∃ draw : Byte, exec .reset s = .next
    { ts := 0#3, data := 0#4, sr := draw, cnt := 0#4, oe := false, ge := false, seIfg := false, seIe := true,
      inIfg := false, inIe := true, inBusy := false, ind := true, tr := s.tr ++ [.rst], offers := s.offers,
      draws := s.draws + 1 }

/-- ARM, whole next state where it is admitted, and its refusal everywhere else (R126, R170; decision D20). -/
def Obligations.ArmResult : Prop :=
  encode .arm = 0x20#8 ∧
  ∀ s : State,
    (s.ts = 0#3 → s.cnt = 0#4 → exec .arm s = .next { s with seIfg := true }) ∧
    (¬ (s.ts = 0#3 ∧ s.cnt = 0#4) → exec .arm s = .refused .armWhileBusy)

/-! ### The machine as a whole -/

/-- Frame of the registers, the flags and the outputs: an operation that answers a next state leaves every element as it is but for those
R36 says it writes (`draws` and `offers` are the model's own: only RESET takes a draw, nothing touches the offers). -/
def Obligations.OnlyOwnersWrite : Prop :=
  ∀ (i : Instr) (s t : State), exec i s = .next t → i ≠ .reset →
    (isStep i = false → t.ts = s.ts) ∧
    (i ≠ .inbegin → t.data = s.data) ∧
    (i ≠ .stepStart → i ≠ .stepAacAck → i ≠ .stepAacNack → (∀ a, i ≠ .stepDac a) → i ≠ .stepStop → isShift i = false →
      t.sr = s.sr) ∧
    (isStep i = false ∨ i = .stepStop → isShift i = false → t.cnt = s.cnt) ∧
    (isStep i = false → t.oe = s.oe) ∧
    (i ≠ .stepStart → i ≠ .stepStop → t.ge = s.ge) ∧
    (i ≠ .arm → isShift i = false → isStep i = false → t.seIfg = s.seIfg) ∧
    (i ≠ .inbegin → i ≠ .inend → t.seIe = s.seIe ∧ t.inIe = s.inIe ∧ t.inBusy = s.inBusy ∧ t.ind = s.ind) ∧
    (i ≠ .edge → i ≠ .inend → t.inIfg = s.inIfg) ∧
    (i ≠ .stepStart → i ≠ .stepStop → isShift i = false → i ≠ .inbegin → i ≠ .inend → t.tr = s.tr) ∧
    t.draws = s.draws ∧ t.offers = s.offers

/-- Frame of the trace: what each operation appends, nothing ever being removed; so START occurs once per STEP.START, STOP and WAKE once per
STEP.STOP, a BIT once per SHIFT, and every other operation appends nothing (R33, R36, R64, R127; decisions D9, D17). -/
def Obligations.TraceGrowsByTheOperationsEvents : Prop :=
  ∀ (i : Instr) (s t : State), exec i s = .next t →
    (i = .stepStart → t.tr = s.tr ++ [.start]) ∧ (i = .stepStop → t.tr = s.tr ++ [.stop, .wake]) ∧
    (isShift i = true → ∃ d level, t.tr = s.tr ++ [.bit d level]) ∧
    (i = .inbegin → t.tr = s.tr ++ [.ind false]) ∧ (i = .inend → t.tr = s.tr ++ [.ind true]) ∧
    (i = .reset → t.tr = s.tr ++ [.rst]) ∧
    (i = .arm ∨ i = .edge ∨ i = .stepAaw ∨ i = .stepAacAck ∨ i = .stepAacNack ∨ i = .stepDaw ∨ (∃ a, i = .stepDac a) →
      t.tr = s.tr) ∧
    t.tr.count .start = s.tr.count .start + (if i = .stepStart then 1 else 0) ∧
    t.tr.count .stop = s.tr.count .stop + (if i = .stepStop then 1 else 0) ∧
    t.tr.count .wake = s.tr.count .wake + (if i = .stepStop then 1 else 0)

/-- The invariants of R37 hold at reset. -/
def Obligations.ResetMeetsInvariants : Prop := Invariants State.reset ∧ quiescent State.reset

/-- Every step keeps the invariants of R37, from every state that meets them. -/
def Obligations.StepKeepsInvariants : Prop :=
  ∀ s t : State, Invariants s → step s = .next t → Invariants t

/-- R129: in a state that meets the invariants, quiescent is exactly that no internal operation is enabled, and there the bus is released. -/
def Obligations.QuiescentIffNothingInternalEnabled : Prop :=
  ∀ s : State, Invariants s →
    (quiescent s ↔ ∀ i, isInternal i = true → ¬ enabled i s) ∧ (quiescent s → s.oe = false ∧ s.ge = false)

/-- The shift register is not read before STEP.START has written it (R23, R37 I8): outside a transaction, with no transfer pending, the value
of `sr` decides no outcome, every operation but STEP.START and RESET carries it along, and those two overwrite it. -/
def Obligations.ShiftRegisterUnreadBeforeStart : Prop :=
  ∀ (i : Instr) (s : State) (v : Byte), s.ts = 0#3 → s.cnt = 0#4 →
    (∀ t, exec i s = .next t →
      exec i { s with sr := v } = .next { t with sr := if i = .stepStart ∨ i = .reset then t.sr else v }) ∧
    (∀ r, exec i s = .refused r → exec i { s with sr := v } = .refused r)

/-- `data` is read by STEP.AAC.ACK and by the increment only (R36, R63): under every other operation a different `data` changes nothing else,
and a transfer under way is not touched by a change of `data`. -/
def Obligations.DataReadOnlyWhenDataPhaseStarts : Prop :=
  ∀ (i : Instr) (s t : State) (v : Nibble), i ≠ .stepAacAck → exec i s = .next t →
    exec i { s with data := v } =
      .next { t with data := if i = .inbegin then v + 1#4 else if i = .reset then t.data else v }

/-- Nothing in the machine depends on what was recorded, nor on the indicator (R32, R33, R36): with another trace and another indicator level
the same operation occurs with the same effect, its events appended to the other trace. -/
def Obligations.TraceAndIndicatorAreNeverRead : Prop :=
  ∀ (i : Instr) (s t : State) (tr : List TraceEvent) (level : Bool), exec i s = .next t →
    ∃ events, t.tr = s.tr ++ events ∧
      exec i { s with tr := tr, ind := level } =
        .next { t with
          tr := tr ++ events, ind := if i = .inbegin ∨ i = .inend ∨ i = .reset then t.ind else level }

/-- Simultaneous requests (R142): with both requests ready in a state that meets the invariants, the serial engine first or the input first
both complete, and the two final states agree on everything but the trace and, when the STEP is STEP.AAC.ACK, the byte it loads. -/
def Obligations.ArbitrationOrdersConverge : Prop :=
  ∀ (s : State) (i : Instr), Invariants s → s.seIfg = true → s.seIe = true → s.inIfg = true → s.inIe = true →
    selectedStep s = some i →
    ∃ t u, runInstrs [i, .inbegin, .inend] s = .next t ∧ runInstrs [.inbegin, .inend, i] s = .next u ∧
      t = { u with tr := t.tr, sr := t.sr } ∧ (i ≠ .stepAacAck → t.sr = u.sr) ∧
      (i = .stepAacAck → t.sr = BitVec.ofNat 8 s.data.toNat ∧ u.sr = BitVec.ofNat 8 ((s.data.toNat + 1) % 16)) ∧
      t.data = s.data + 1#4

/-- The arbiter's policies (R141, R142; decision D15): every policy grants only ready requests, grants some ready request, and `se_first` and
`in_first` grant the other source only when their own is not ready; `any` grants every ready request, and it is the default. -/
def Obligations.ArbiterPolicies : Prop :=
  Config.arb = .any ∧
  ∀ (p : Arb) (se inp : Bool),
    (arbGrantsSe p se inp = true → se = true) ∧ (arbGrantsIn p se inp = true → inp = true) ∧
    (se = true ∨ inp = true → arbGrantsSe p se inp = true ∨ arbGrantsIn p se inp = true) ∧
    (arbGrantsSe .any se inp = se ∧ arbGrantsIn .any se inp = inp) ∧
    (arbGrantsSe .seFirst se inp = se ∧ arbGrantsIn .seFirst se inp = (inp && !se)) ∧
    (arbGrantsSe .inFirst se inp = (se && !inp) ∧ arbGrantsIn .inFirst se inp = inp)

/-- A data NACK is silent (R137, R177): from the data ack slot, acknowledged or not, SHIFT and STEP.DAC lead to states that differ in the last
wire event only. -/
def Obligations.DataNackIsSilent : Prop :=
  ∀ s : State, s.ts = 4#3 → s.oe = false → s.cnt = 1#4 → s.seIe = true →
    ∃ t u, runInstrs [.shift false, .stepDac false] s = .next t ∧ runInstrs [.shift true, .stepDac true] s = .next u ∧
      t = { u with tr := t.tr } ∧ t.tr = s.tr ++ [.bit .z false] ∧ u.tr = s.tr ++ [.bit .z true]

/-- A transaction whose address is acknowledged, with no input event interleaved, from any armed rest state, against any contention on driven
bits and either data ack (R98, R55, R91 to R97, R179): it ends idle with `data` as it was, its trace is exactly START, the address byte, the ack slot, the data byte, the
ack slot, the stop-preparation bit, STOP, WAKE, and its bytes are the address byte acknowledged and the zero-extended `data` with its ack.
Decisions D8, D9, D11, D12, D28 of the spec. -/
def Obligations.AcknowledgedTransaction : Prop :=
  ∀ (s : State) (addr dat : List Bool) (a2 last : Bool), addr.length = 8 → dat.length = 8 →
    s.ts = 0#3 → s.cnt = 0#4 → s.seIfg = true → s.seIe = true →
    ∃ events,
      events = .start :: drivenBits 0x90#8 addr ++ .bit .z false :: drivenBits (s.data.setWidth 8) dat ++
        [.bit .z a2, .bit (.driven false) false, .stop, .wake] ∧
      runInstrs (ackPath addr dat a2 last) s = .next { s with
        sr := 0xFF#8, oe := false, ge := false, seIfg := false, tr := s.tr ++ events } ∧
      bytes events = some [(0x90#8, false), (s.data.setWidth 8, a2)]

/-- A transaction whose address is not acknowledged, with no input event interleaved (R98, R136, R178, R94): the data phase is skipped, the state it ends in is that of an
acknowledged one but for the trace, and its bytes are the address byte alone, not acknowledged. Decisions D8, D9, D11, D12, D28 of the spec. -/
def Obligations.UnacknowledgedTransaction : Prop :=
  ∀ (s : State) (addr : List Bool) (last : Bool), addr.length = 8 →
    s.ts = 0#3 → s.cnt = 0#4 → s.seIfg = true → s.seIe = true →
    ∃ events,
      events = .start :: drivenBits 0x90#8 addr ++ [.bit .z true, .bit (.driven false) false, .stop, .wake] ∧
      runInstrs (nackPath addr last) s = .next { s with
        sr := 0xFF#8, oe := false, ge := false, seIfg := false, tr := s.tr ++ events } ∧
      bytes events = some [(0x90#8, true)] ∧ isAddrNack [(0x90#8, true)] = true

/-- A completed transaction has exactly 6 STEPs and 19 SHIFTs, or 4 STEPs and 10 SHIFTs, whatever EDGE, INBEGIN, INEND and repeated ARM are
interleaved with it (R181, R98): for every run from an armed Start state that meets the invariants to its first STEP.STOP, without RESET. -/
def Obligations.CompletedTransactionCounts : Prop :=
  ∀ (s t : State) (ops : List Instr), Invariants s → s.ts = 0#3 → s.seIfg = true →
    (∀ i ∈ ops, i ≠ .reset ∧ i ≠ .stepStop) → runInstrs (ops ++ [.stepStop]) s = .next t →
    (countOps isStep (ops ++ [.stepStop]) = 6 ∧ countOps isShift ops = 19 ∧ .stepAacAck ∈ ops) ∨
    (countOps isStep (ops ++ [.stepStop]) = 4 ∧ countOps isShift ops = 10 ∧ .stepAacNack ∈ ops)

/-- Under FAIR_ENGINE an armed transaction reaches STEP.STOP, in every execution without RESET in which input edges stop arriving at some point
(R181; decision D25). The last premise is the model's: with edges for ever the premise FAIR_ENGINE alone does not give it (log 21). -/
def Obligations.FairEngineCompletesTransaction : Prop :=
  ∀ (st : Nat → State) (op : Nat → Option Instr), IsExecution st op → FairEngine st op →
    Invariants (st 0) → (st 0).ts = 0#3 → (st 0).seIfg = true → (∀ n, op n ≠ some .reset) →
    (∃ n, ∀ m, n ≤ m → op m ≠ some .edge) → ∃ n, op n = some .stepStop

/-- Input traffic for ever can starve a transaction although FAIR_ENGINE holds (R181, R142, R180): there is a fair execution from an armed Start
state that meets the invariants in which no STEP ever occurs, because the request never stays ready. The model's reading of R181 (log 21). -/
def Obligations.EndlessInputTrafficCanStarve : Prop :=
  ∃ (st : Nat → State) (op : Nat → Option Instr), IsExecution st op ∧ FairEngine st op ∧
    Invariants (st 0) ∧ (st 0).ts = 0#3 ∧ (st 0).seIfg = true ∧ (∀ n, op n ≠ some .reset) ∧
    ∀ n i, op n = some i → isStep i = false
end

