-- ==== Sys2Proof/Laws/Decode.lean ====
section
/-! SUPPORT. The fields of the words the encoder makes (R70). -/

namespace Sys2Proof

@[simp] theorem evField_evWord (ev : Code) : evField (evWord ev) = ev := by revert ev; decide

@[simp] theorem evField_shWord (e : Bool) : evField (shWord e) = 3#3 := by cases e <;> decide

@[simp] theorem bit4Field_shWord (e : Bool) : bit4Field (shWord e) = e := by cases e <;> decide

@[simp] theorem evField_stWord (a : Bool) (ts : Code) : evField (stWord a ts) = 4#3 := by revert ts; cases a <;> decide

@[simp] theorem bit4Field_stWord (a : Bool) (ts : Code) : bit4Field (stWord a ts) = a := by revert ts; cases a <;> decide

@[simp] theorem bit3Field_stWord (a : Bool) (ts : Code) : bit3Field (stWord a ts) = false := by revert ts; cases a <;> decide

@[simp] theorem tsField_stWord (a : Bool) (ts : Code) : tsField (stWord a ts) = ts := by revert ts; cases a <;> decide

/-- An `ST` word is decoded by its sampled bit and its state code (R73, R80). -/
theorem decode_stWord (a : Bool) (ts : Code) : decode (stWord a ts) = decodeStep a ts := by
  simp [decode]

end Sys2Proof
end

