-- ==== Sys2Proof/Laws/State.lean ====
section
/-! SUPPORT. One lemma per field and per named update of State, each true by rfl, so that no later proof unfolds an update. -/

namespace Sys2Proof.Machine

section
variable (x : TraceEvent) (s : State)

@[simp] theorem emit_ts : (emit x s).ts = s.ts := rfl
@[simp] theorem emit_data : (emit x s).data = s.data := rfl
@[simp] theorem emit_sr : (emit x s).sr = s.sr := rfl
@[simp] theorem emit_cnt : (emit x s).cnt = s.cnt := rfl
@[simp] theorem emit_oe : (emit x s).oe = s.oe := rfl
@[simp] theorem emit_ge : (emit x s).ge = s.ge := rfl
@[simp] theorem emit_seIfg : (emit x s).seIfg = s.seIfg := rfl
@[simp] theorem emit_seIe : (emit x s).seIe = s.seIe := rfl
@[simp] theorem emit_inIfg : (emit x s).inIfg = s.inIfg := rfl
@[simp] theorem emit_inIe : (emit x s).inIe = s.inIe := rfl
@[simp] theorem emit_inBusy : (emit x s).inBusy = s.inBusy := rfl
@[simp] theorem emit_ind : (emit x s).ind = s.ind := rfl
@[simp] theorem emit_tr : (emit x s).tr = s.tr ++ [x] := rfl
@[simp] theorem emit_offers : (emit x s).offers = s.offers := rfl
@[simp] theorem emit_draws : (emit x s).draws = s.draws := rfl

end

section
variable (v : Byte) (s : State)

@[simp] theorem loadSr_ts : (loadSr v s).ts = s.ts := rfl
@[simp] theorem loadSr_data : (loadSr v s).data = s.data := rfl
@[simp] theorem loadSr_sr : (loadSr v s).sr = v := rfl
@[simp] theorem loadSr_cnt : (loadSr v s).cnt = s.cnt := rfl
@[simp] theorem loadSr_oe : (loadSr v s).oe = s.oe := rfl
@[simp] theorem loadSr_ge : (loadSr v s).ge = s.ge := rfl
@[simp] theorem loadSr_seIfg : (loadSr v s).seIfg = s.seIfg := rfl
@[simp] theorem loadSr_seIe : (loadSr v s).seIe = s.seIe := rfl
@[simp] theorem loadSr_inIfg : (loadSr v s).inIfg = s.inIfg := rfl
@[simp] theorem loadSr_inIe : (loadSr v s).inIe = s.inIe := rfl
@[simp] theorem loadSr_inBusy : (loadSr v s).inBusy = s.inBusy := rfl
@[simp] theorem loadSr_ind : (loadSr v s).ind = s.ind := rfl
@[simp] theorem loadSr_tr : (loadSr v s).tr = s.tr := rfl
@[simp] theorem loadSr_offers : (loadSr v s).offers = s.offers := rfl
@[simp] theorem loadSr_draws : (loadSr v s).draws = s.draws := rfl

end

section
variable (n : Nibble) (s : State)

@[simp] theorem loadCnt_ts : (loadCnt n s).ts = s.ts := rfl
@[simp] theorem loadCnt_data : (loadCnt n s).data = s.data := rfl
@[simp] theorem loadCnt_sr : (loadCnt n s).sr = s.sr := rfl
@[simp] theorem loadCnt_cnt : (loadCnt n s).cnt = n := rfl
@[simp] theorem loadCnt_oe : (loadCnt n s).oe = s.oe := rfl
@[simp] theorem loadCnt_ge : (loadCnt n s).ge = s.ge := rfl
@[simp] theorem loadCnt_seIfg : (loadCnt n s).seIfg = s.seIfg := rfl
@[simp] theorem loadCnt_seIe : (loadCnt n s).seIe = s.seIe := rfl
@[simp] theorem loadCnt_inIfg : (loadCnt n s).inIfg = s.inIfg := rfl
@[simp] theorem loadCnt_inIe : (loadCnt n s).inIe = s.inIe := rfl
@[simp] theorem loadCnt_inBusy : (loadCnt n s).inBusy = s.inBusy := rfl
@[simp] theorem loadCnt_ind : (loadCnt n s).ind = s.ind := rfl
@[simp] theorem loadCnt_tr : (loadCnt n s).tr = s.tr := rfl
@[simp] theorem loadCnt_offers : (loadCnt n s).offers = s.offers := rfl
@[simp] theorem loadCnt_draws : (loadCnt n s).draws = s.draws := rfl

end

section
variable (b : Bool) (s : State)

@[simp] theorem setOe_ts : (setOe b s).ts = s.ts := rfl
@[simp] theorem setOe_data : (setOe b s).data = s.data := rfl
@[simp] theorem setOe_sr : (setOe b s).sr = s.sr := rfl
@[simp] theorem setOe_cnt : (setOe b s).cnt = s.cnt := rfl
@[simp] theorem setOe_oe : (setOe b s).oe = b := rfl
@[simp] theorem setOe_ge : (setOe b s).ge = s.ge := rfl
@[simp] theorem setOe_seIfg : (setOe b s).seIfg = s.seIfg := rfl
@[simp] theorem setOe_seIe : (setOe b s).seIe = s.seIe := rfl
@[simp] theorem setOe_inIfg : (setOe b s).inIfg = s.inIfg := rfl
@[simp] theorem setOe_inIe : (setOe b s).inIe = s.inIe := rfl
@[simp] theorem setOe_inBusy : (setOe b s).inBusy = s.inBusy := rfl
@[simp] theorem setOe_ind : (setOe b s).ind = s.ind := rfl
@[simp] theorem setOe_tr : (setOe b s).tr = s.tr := rfl
@[simp] theorem setOe_offers : (setOe b s).offers = s.offers := rfl
@[simp] theorem setOe_draws : (setOe b s).draws = s.draws := rfl

end

section
variable (b : Bool) (s : State)

@[simp] theorem setGe_ts : (setGe b s).ts = s.ts := rfl
@[simp] theorem setGe_data : (setGe b s).data = s.data := rfl
@[simp] theorem setGe_sr : (setGe b s).sr = s.sr := rfl
@[simp] theorem setGe_cnt : (setGe b s).cnt = s.cnt := rfl
@[simp] theorem setGe_oe : (setGe b s).oe = s.oe := rfl
@[simp] theorem setGe_ge : (setGe b s).ge = b := rfl
@[simp] theorem setGe_seIfg : (setGe b s).seIfg = s.seIfg := rfl
@[simp] theorem setGe_seIe : (setGe b s).seIe = s.seIe := rfl
@[simp] theorem setGe_inIfg : (setGe b s).inIfg = s.inIfg := rfl
@[simp] theorem setGe_inIe : (setGe b s).inIe = s.inIe := rfl
@[simp] theorem setGe_inBusy : (setGe b s).inBusy = s.inBusy := rfl
@[simp] theorem setGe_ind : (setGe b s).ind = s.ind := rfl
@[simp] theorem setGe_tr : (setGe b s).tr = s.tr := rfl
@[simp] theorem setGe_offers : (setGe b s).offers = s.offers := rfl
@[simp] theorem setGe_draws : (setGe b s).draws = s.draws := rfl

end

section
variable (t : TState) (s : State)

@[simp] theorem goTo_ts : (goTo t s).ts = t.code := rfl
@[simp] theorem goTo_data : (goTo t s).data = s.data := rfl
@[simp] theorem goTo_sr : (goTo t s).sr = s.sr := rfl
@[simp] theorem goTo_cnt : (goTo t s).cnt = s.cnt := rfl
@[simp] theorem goTo_oe : (goTo t s).oe = s.oe := rfl
@[simp] theorem goTo_ge : (goTo t s).ge = s.ge := rfl
@[simp] theorem goTo_seIfg : (goTo t s).seIfg = s.seIfg := rfl
@[simp] theorem goTo_seIe : (goTo t s).seIe = s.seIe := rfl
@[simp] theorem goTo_inIfg : (goTo t s).inIfg = s.inIfg := rfl
@[simp] theorem goTo_inIe : (goTo t s).inIe = s.inIe := rfl
@[simp] theorem goTo_inBusy : (goTo t s).inBusy = s.inBusy := rfl
@[simp] theorem goTo_ind : (goTo t s).ind = s.ind := rfl
@[simp] theorem goTo_tr : (goTo t s).tr = s.tr := rfl
@[simp] theorem goTo_offers : (goTo t s).offers = s.offers := rfl
@[simp] theorem goTo_draws : (goTo t s).draws = s.draws := rfl

end

section
variable (s : State)

@[simp] theorem stepEntry_ts : ((stepEntry s).2).ts = s.ts := rfl
@[simp] theorem stepEntry_data : ((stepEntry s).2).data = s.data := rfl
@[simp] theorem stepEntry_sr : ((stepEntry s).2).sr = s.sr := rfl
@[simp] theorem stepEntry_cnt : ((stepEntry s).2).cnt = s.cnt := rfl
@[simp] theorem stepEntry_oe : ((stepEntry s).2).oe = s.oe := rfl
@[simp] theorem stepEntry_ge : ((stepEntry s).2).ge = s.ge := rfl
@[simp] theorem stepEntry_seIfg : ((stepEntry s).2).seIfg = s.seIfg := rfl
@[simp] theorem stepEntry_seIe : ((stepEntry s).2).seIe = s.seIe := rfl
@[simp] theorem stepEntry_inIfg : ((stepEntry s).2).inIfg = s.inIfg := rfl
@[simp] theorem stepEntry_inIe : ((stepEntry s).2).inIe = false := rfl
@[simp] theorem stepEntry_inBusy : ((stepEntry s).2).inBusy = s.inBusy := rfl
@[simp] theorem stepEntry_ind : ((stepEntry s).2).ind = s.ind := rfl
@[simp] theorem stepEntry_tr : ((stepEntry s).2).tr = s.tr := rfl
@[simp] theorem stepEntry_offers : ((stepEntry s).2).offers = s.offers := rfl
@[simp] theorem stepEntry_draws : ((stepEntry s).2).draws = s.draws := rfl

end

section
variable (b : Bool) (s : State)

@[simp] theorem stepExit_ts : (stepExit b s).ts = s.ts := rfl
@[simp] theorem stepExit_data : (stepExit b s).data = s.data := rfl
@[simp] theorem stepExit_sr : (stepExit b s).sr = s.sr := rfl
@[simp] theorem stepExit_cnt : (stepExit b s).cnt = s.cnt := rfl
@[simp] theorem stepExit_oe : (stepExit b s).oe = s.oe := rfl
@[simp] theorem stepExit_ge : (stepExit b s).ge = s.ge := rfl
@[simp] theorem stepExit_seIfg : (stepExit b s).seIfg = false := rfl
@[simp] theorem stepExit_seIe : (stepExit b s).seIe = s.seIe := rfl
@[simp] theorem stepExit_inIfg : (stepExit b s).inIfg = s.inIfg := rfl
@[simp] theorem stepExit_inIe : (stepExit b s).inIe = b := rfl
@[simp] theorem stepExit_inBusy : (stepExit b s).inBusy = s.inBusy := rfl
@[simp] theorem stepExit_ind : (stepExit b s).ind = s.ind := rfl
@[simp] theorem stepExit_tr : (stepExit b s).tr = s.tr := rfl
@[simp] theorem stepExit_offers : (stepExit b s).offers = s.offers := rfl
@[simp] theorem stepExit_draws : (stepExit b s).draws = s.draws := rfl

end

section
variable (s : State)

@[simp] theorem inputEntry_ts : (inputEntry s).ts = s.ts := rfl
@[simp] theorem inputEntry_data : (inputEntry s).data = s.data := rfl
@[simp] theorem inputEntry_sr : (inputEntry s).sr = s.sr := rfl
@[simp] theorem inputEntry_cnt : (inputEntry s).cnt = s.cnt := rfl
@[simp] theorem inputEntry_oe : (inputEntry s).oe = s.oe := rfl
@[simp] theorem inputEntry_ge : (inputEntry s).ge = s.ge := rfl
@[simp] theorem inputEntry_seIfg : (inputEntry s).seIfg = s.seIfg := rfl
@[simp] theorem inputEntry_seIe : (inputEntry s).seIe = false := rfl
@[simp] theorem inputEntry_inIfg : (inputEntry s).inIfg = s.inIfg := rfl
@[simp] theorem inputEntry_inIe : (inputEntry s).inIe = false := rfl
@[simp] theorem inputEntry_inBusy : (inputEntry s).inBusy = s.inBusy := rfl
@[simp] theorem inputEntry_ind : (inputEntry s).ind = s.ind := rfl
@[simp] theorem inputEntry_tr : (inputEntry s).tr = s.tr := rfl
@[simp] theorem inputEntry_offers : (inputEntry s).offers = s.offers := rfl
@[simp] theorem inputEntry_draws : (inputEntry s).draws = s.draws := rfl

end

section
variable (s : State)

@[simp] theorem inputExit_ts : (inputExit s).ts = s.ts := rfl
@[simp] theorem inputExit_data : (inputExit s).data = s.data := rfl
@[simp] theorem inputExit_sr : (inputExit s).sr = s.sr := rfl
@[simp] theorem inputExit_cnt : (inputExit s).cnt = s.cnt := rfl
@[simp] theorem inputExit_oe : (inputExit s).oe = s.oe := rfl
@[simp] theorem inputExit_ge : (inputExit s).ge = s.ge := rfl
@[simp] theorem inputExit_seIfg : (inputExit s).seIfg = s.seIfg := rfl
@[simp] theorem inputExit_seIe : (inputExit s).seIe = true := rfl
@[simp] theorem inputExit_inIfg : (inputExit s).inIfg = false := rfl
@[simp] theorem inputExit_inIe : (inputExit s).inIe = true := rfl
@[simp] theorem inputExit_inBusy : (inputExit s).inBusy = s.inBusy := rfl
@[simp] theorem inputExit_ind : (inputExit s).ind = s.ind := rfl
@[simp] theorem inputExit_tr : (inputExit s).tr = s.tr := rfl
@[simp] theorem inputExit_offers : (inputExit s).offers = s.offers := rfl
@[simp] theorem inputExit_draws : (inputExit s).draws = s.draws := rfl

end

section
variable (b : Bool) (s : State)

@[simp] theorem driveInd_ts : (driveInd b s).ts = s.ts := rfl
@[simp] theorem driveInd_data : (driveInd b s).data = s.data := rfl
@[simp] theorem driveInd_sr : (driveInd b s).sr = s.sr := rfl
@[simp] theorem driveInd_cnt : (driveInd b s).cnt = s.cnt := rfl
@[simp] theorem driveInd_oe : (driveInd b s).oe = s.oe := rfl
@[simp] theorem driveInd_ge : (driveInd b s).ge = s.ge := rfl
@[simp] theorem driveInd_seIfg : (driveInd b s).seIfg = s.seIfg := rfl
@[simp] theorem driveInd_seIe : (driveInd b s).seIe = s.seIe := rfl
@[simp] theorem driveInd_inIfg : (driveInd b s).inIfg = s.inIfg := rfl
@[simp] theorem driveInd_inIe : (driveInd b s).inIe = s.inIe := rfl
@[simp] theorem driveInd_inBusy : (driveInd b s).inBusy = s.inBusy := rfl
@[simp] theorem driveInd_ind : (driveInd b s).ind = b := rfl
@[simp] theorem driveInd_tr : (driveInd b s).tr = s.tr ++ [.ind b] := rfl
@[simp] theorem driveInd_offers : (driveInd b s).offers = s.offers := rfl
@[simp] theorem driveInd_draws : (driveInd b s).draws = s.draws := rfl

end

end Sys2Proof.Machine
end

