-- ==== Sys2Proof/Laws/Ops.lean ====
section
/-! SUPPORT. What each shared operation can do, said once: the codes, the sampler, the arbiter, the wire, the handler frame and the service of a STEP. -/

namespace Sys2Proof.Machine

/-! ### State codes -/

@[simp] theorem TState.ofCode_code (t : TState) : TState.ofCode t.code = some t := by cases t <;> rfl

theorem TState.code_of_ofCode {c : Code} {t : TState} (h : TState.ofCode c = some t) : c = t.code := by
  have all : ∀ c : Code, ∀ t, TState.ofCode c = some t → c = t.code := by
    intro c t
    match c with
    | 0#3 | 1#3 | 2#3 | 3#3 | 4#3 | 5#3 | 6#3 | 7#3 => cases t <;> decide
  exact all c t h

theorem TState.ofCode_eq_some {c : Code} {t : TState} : TState.ofCode c = some t ↔ c = t.code :=
  ⟨TState.code_of_ofCode, fun h => h ▸ TState.ofCode_code t⟩

theorem TState.code_injective {a b : TState} (h : a.code = b.code) : a = b := by
  have := TState.ofCode_code a
  rw [h, TState.ofCode_code] at this
  exact (Option.some.inj this).symm

theorem TState.ofCode_eq_none {c : Code} : TState.ofCode c = none ↔ c = 6#3 ∨ c = 7#3 := by
  match c with
  | 0#3 | 1#3 | 2#3 | 3#3 | 4#3 | 5#3 | 6#3 | 7#3 => decide

/-! ### Operands -/

theorem shiftIn_getLsbD_zero (sr : Byte) (s : Bool) : (shiftIn sr s).getLsbD 0 = s := by
  revert sr
  cases s <;> decide

/-- Shifting in is doubling with the sampled bit added, wrapped to eight bits (R105). -/
theorem shiftIn_eq_ofNat (sr : Byte) (s : Bool) : shiftIn sr s = BitVec.ofNat 8 (sr.toNat * 2 + s.toNat) := by
  revert sr
  cases s <;> decide

/-- The bits above bit 0 after a shift are the bits below bit 7 before it (R23). -/
theorem shiftIn_getLsbD_succ (sr : Byte) (s : Bool) {n : Nat} (h : n < 7) :
    (shiftIn sr s).getLsbD (n + 1) = sr.getLsbD n := by
  rw [shiftIn, BitVec.getLsbD_append]
  simp [h]

@[simp] theorem shiftIn_getElem_zero (sr : Byte) (s : Bool) : (shiftIn sr s)[0] = s := shiftIn_getLsbD_zero sr s

/-- `shiftIn_getLsbD_succ` in simp's own form of a bit. -/
theorem shiftIn_getElem_succ (sr : Byte) (s : Bool) {n : Nat} (h : n < 7) : (shiftIn sr s)[n + 1] = sr[n] := by
  rw [← BitVec.getLsbD_eq_getElem, ← BitVec.getLsbD_eq_getElem]
  exact shiftIn_getLsbD_succ sr s h

@[simp] theorem sampledLevel_driven (b e : Bool) : sampledLevel (.driven b) e = (b && e) := rfl

@[simp] theorem sampledLevel_z (e : Bool) : sampledLevel .z e = e := by simp [sampledLevel, Drive.contribution]

theorem presented_of_oe {s : State} (h : s.oe = true) : presented s = .driven (s.sr.getLsbD 7) := by
  simp [presented, h]

theorem presented_of_input {s : State} (h : s.oe = false) : presented s = .z := by simp [presented, h]

/-! ### The data line -/

@[simp] theorem presentedBit_append (tr : List TraceEvent) (x : TraceEvent) :
    presentedBit (tr ++ [x]) = driveAfter (presentedBit tr) x := by simp [presentedBit]

/-- Through the pass-through the drive is `sr[7]` at once (R109). -/
theorem sdaDrive_of_passThrough {s : State} (hg : s.ge = true) (ho : s.oe = true) :
    sdaDrive s = .driven (s.sr.getLsbD 7) := by simp [sdaDrive, passThroughDrive, hg, ho]

/-- With the pass-through off the drive does not look at `sr` (R109). -/
theorem sdaDrive_of_held {s : State} (hg : s.ge = false) : sdaDrive s = if s.oe then presentedBit s.tr else .z := by
  simp [sdaDrive, passThroughDrive, hg]

theorem sdaDrive_of_input {s : State} (ho : s.oe = false) : sdaDrive s = .z := by simp [sdaDrive, passThroughDrive, ho]

/-! ### The arbiter -/

/-- Under the default policy `any` the grant of the serial-engine request is its readiness (R142). -/
theorem seGranted_eq (s : State) : seGranted s = (s.seIfg && s.seIe) := rfl

/-- Under the default policy `any` the grant of the input request is its readiness (R142). -/
theorem inGranted_eq (s : State) : inGranted s = (s.inIfg && s.inIe) := rfl

theorem seGranted_iff {s : State} : seGranted s = true ↔ s.seIfg = true ∧ s.seIe = true := by
  simp [seGranted_eq]

theorem inGranted_iff {s : State} : inGranted s = true ↔ s.inIfg = true ∧ s.inIe = true := by
  simp [inGranted_eq]

theorem armAdmitted_iff {s : State} : armAdmitted s = true ↔ s.ts = TState.start.code ∧ s.cnt = 0#4 := by
  simp [armAdmitted]

theorem transferPending_iff {s : State} : transferPending s = true ↔ s.cnt ≠ 0#4 := by
  simp [transferPending]

/-! ### The handler frame and the service of a STEP -/

/-- The frame leaves `in_ie` as it found it and clears `se_ifg`, whatever the body does to them (R144, R145). -/
theorem serviceFrame_eq (body : State → State) (s : State) :
    serviceFrame body s = { body { s with inIe := false } with seIfg := false, inIe := s.inIe } := rfl

theorem genStart_eq (s : State) :
    genStart s = { s with sr := 0x00#8, oe := true, ge := false, tr := s.tr ++ [.start] } := rfl

theorem genStop_eq (s : State) :
    genStop s = { s with sr := 0xFF#8, ge := false, oe := false, tr := s.tr ++ [.stop] } := rfl

theorem ackSlot_eq (t : TState) (s : State) :
    ackSlot t s = { s with oe := false, cnt := 1#4, ts := t.code } := rfl

theorem prepareStop_eq (s : State) :
    prepareStop s = { s with oe := true, sr := 0x00#8, cnt := 1#4, ts := TState.stop.code } := rfl

section
variable {here : TState} {admits : Bool} {body : State → State} {s t : State}

/-- A STEP answers a next state only from a granted request in its own state with its own sampled bit (R90). -/
theorem stepService_next (h : stepService here admits body s = .next t) :
    s.seIfg = true ∧ s.seIe = true ∧ s.ts = here.code ∧ admits = true ∧ t = serviceFrame body s := by
  unfold stepService at h
  split at h
  · rename_i granted
    split at h
    · cases h
    · rename_i u hu
      split at h
      · rename_i both
        cases h
        obtain ⟨hi, he⟩ := seGranted_iff.mp granted
        exact ⟨hi, he, both.1 ▸ TState.code_of_ofCode hu, both.2, rfl⟩
      · cases h
  · cases h

/-- A STEP whose request is granted in its own state with its own sampled bit runs its body in the handler frame (R90). -/
theorem stepService_enabled (hi : s.seIfg = true) (he : s.seIe = true) (hts : s.ts = here.code) (ha : admits = true) :
    stepService here admits body s = .next (serviceFrame body s) := by
  simp [stepService, seGranted_eq, hi, he, hts, ha]

/-- Without a ready request no STEP occurs (R90, R10). -/
theorem stepService_not_ready (h : ¬ (s.seIfg = true ∧ s.seIe = true)) :
    stepService here admits body s = .refused .stepNotEnabled := by
  unfold stepService
  rw [if_neg (fun g => h (seGranted_iff.mp g))]

/-- A granted request with `ts` at code 6 or 7 faults (R81). -/
theorem stepService_illegal (hi : s.seIfg = true) (he : s.seIe = true) (hts : s.ts = 6#3 ∨ s.ts = 7#3) :
    stepService here admits body s = .fault .illegalState := by
  simp [stepService, seGranted_eq, hi, he, TState.ofCode_eq_none.mpr hts]

/-- A granted request in a legal state that does not select this STEP (R76, R90). -/
theorem stepService_not_selected {u : TState} (hi : s.seIfg = true) (he : s.seIe = true) (hts : s.ts = u.code)
    (hne : ¬ (u = here ∧ admits = true)) : stepService here admits body s = .refused .stepNotSelected := by
  simp [stepService, seGranted_eq, hi, he, hts, hne]

end

end Sys2Proof.Machine
end

