-- ==== Sys2Proof/Laws/Exec.lean ====
section
/-! SUPPORT. One inversion lemma per operation: what must hold, and what the next state is, when it answers one. Every invariant and frame follows from these. -/

namespace Sys2Proof.Machine

section
variable {s t : State}

theorem execStepStart_next (h : exec .stepStart s = .next t) :
    s.seIfg = true ∧ s.seIe = true ∧ s.ts = TState.start.code ∧
    t = { s with
          ts := TState.addrAckWait.code, sr := 0x90#8, cnt := 8#4, oe := true, ge := false, seIfg := false,
          tr := s.tr ++ [.start] } := by
  obtain ⟨hi, he, hts, -, rfl⟩ := stepService_next h
  exact ⟨hi, he, hts, rfl⟩

theorem execStepAaw_next (h : exec .stepAaw s = .next t) :
    s.seIfg = true ∧ s.seIe = true ∧ s.ts = TState.addrAckWait.code ∧
    t = { s with ts := TState.addrAckCheck.code, cnt := 1#4, oe := false, seIfg := false } := by
  obtain ⟨hi, he, hts, -, rfl⟩ := stepService_next h
  exact ⟨hi, he, hts, rfl⟩

theorem execStepAacAck_next (h : exec .stepAacAck s = .next t) :
    s.seIfg = true ∧ s.seIe = true ∧ s.ts = TState.addrAckCheck.code ∧ s.sr.getLsbD 0 = false ∧
    t = { s with
          ts := TState.dataAckWait.code, sr := s.data.setWidth 8, cnt := 8#4, oe := true, seIfg := false } := by
  obtain ⟨hi, he, hts, ha, rfl⟩ := stepService_next h
  exact ⟨hi, he, hts, by simpa [receivedBit] using ha, rfl⟩

theorem execStepAacNack_next (h : exec .stepAacNack s = .next t) :
    s.seIfg = true ∧ s.seIe = true ∧ s.ts = TState.addrAckCheck.code ∧ s.sr.getLsbD 0 = true ∧
    t = { s with ts := TState.stop.code, sr := 0x00#8, cnt := 1#4, oe := true, seIfg := false } := by
  obtain ⟨hi, he, hts, ha, rfl⟩ := stepService_next h
  exact ⟨hi, he, hts, ha, rfl⟩

theorem execStepDaw_next (h : exec .stepDaw s = .next t) :
    s.seIfg = true ∧ s.seIe = true ∧ s.ts = TState.dataAckWait.code ∧
    t = { s with ts := TState.dataAckCheck.code, cnt := 1#4, oe := false, seIfg := false } := by
  obtain ⟨hi, he, hts, -, rfl⟩ := stepService_next h
  exact ⟨hi, he, hts, rfl⟩

theorem execStepDac_next {a : Bool} (h : exec (.stepDac a) s = .next t) :
    s.seIfg = true ∧ s.seIe = true ∧ s.ts = TState.dataAckCheck.code ∧
    t = { s with ts := TState.stop.code, sr := 0x00#8, cnt := 1#4, oe := true, seIfg := false } := by
  obtain ⟨hi, he, hts, -, rfl⟩ := stepService_next h
  exact ⟨hi, he, hts, rfl⟩

theorem execStepStop_next (h : exec .stepStop s = .next t) :
    s.seIfg = true ∧ s.seIe = true ∧ s.ts = TState.stop.code ∧
    t = { s with
          ts := TState.start.code, sr := 0xFF#8, oe := false, ge := false, seIfg := false,
          tr := s.tr ++ [.stop, .wake] } := by
  obtain ⟨hi, he, hts, -, rfl⟩ := stepService_next h
  refine ⟨hi, he, hts, ?_⟩
  rw [serviceFrame_eq, genStop_eq]
  simp [goTo, emit]

theorem execShift_next {e : Bool} (h : exec (.shift e) s = .next t) :
    s.cnt ≠ 0#4 ∧
    t = { s with
          sr := shiftIn s.sr (sampledLevel (presented s) e), cnt := s.cnt - 1#4,
          seIfg := flagAfterShift (s.cnt - 1#4) s.seIfg,
          tr := s.tr ++ [.bit (presented s) (sampledLevel (presented s) e)] } := by
  simp only [exec, execShift] at h
  split at h
  · rename_i hp
    cases h
    exact ⟨transferPending_iff.mp hp, rfl⟩
  · cases h

theorem execEdge_next (h : exec .edge s = .next t) : t = { s with inIfg := true } := by
  cases h
  rfl

theorem execInbegin_next (h : exec .inbegin s = .next t) :
    s.inIfg = true ∧ s.inIe = true ∧
    t = { s with
          seIe := false, inIe := false, data := s.data + 1#4, ind := false, inBusy := true,
          tr := s.tr ++ [.ind false] } := by
  simp only [exec, execInbegin] at h
  split at h
  · rename_i hg
    cases h
    exact ⟨(inGranted_iff.mp hg).1, (inGranted_iff.mp hg).2, rfl⟩
  · cases h

theorem execInend_next (h : exec .inend s = .next t) :
    s.inBusy = true ∧
    t = { s with
          ind := true, inIfg := false, inIe := true, seIe := true, inBusy := false, tr := s.tr ++ [.ind true] } := by
  simp only [exec, execInend] at h
  split at h
  · rename_i hb
    cases h
    exact ⟨hb, rfl⟩
  · cases h

theorem execArm_next (h : exec .arm s = .next t) :
    s.ts = TState.start.code ∧ s.cnt = 0#4 ∧ t = { s with seIfg := true } := by
  simp only [exec, execArm] at h
  split at h
  · rename_i ha
    cases h
    exact ⟨(armAdmitted_iff.mp ha).1, (armAdmitted_iff.mp ha).2, rfl⟩
  · cases h

theorem execReset_next (h : exec .reset s = .next t) :
    t = { s with
          ts := TState.start.code, data := 0#4, sr := Config.srReset s.draws, cnt := 0#4, oe := false, ge := false,
          seIfg := false, seIe := true, inIfg := false, inIe := true, inBusy := false, ind := true,
          tr := s.tr ++ [.rst], draws := s.draws + 1 } := by
  cases h
  rfl

end

end Sys2Proof.Machine
end

