-- ==== Sys2Proof/Laws/PerInstr.lean ====
section
/-! SUPPORT. The family OwnRow: the canonical word of an operation is in the table under that operation's row, with every ignored bit 0 (R70, R80). -/

namespace Sys2Proof.Laws

/-- The operation's canonical word is its own row's. -/
def OwnRow.Statement (i : Instr) : Prop :=
  i.row ∈ opcodeRows ∧ i.row.hits (encode i) = true ∧ canonicalWord (encode i) = true

theorem OwnRow.reset : OwnRow.Statement .reset := ⟨by decide, by decide, by decide⟩
theorem OwnRow.arm : OwnRow.Statement .arm := ⟨by decide, by decide, by decide⟩
theorem OwnRow.edge : OwnRow.Statement .edge := ⟨by decide, by decide, by decide⟩
theorem OwnRow.shift (e : Bool) : OwnRow.Statement (.shift e) := by cases e <;> exact ⟨by decide, by decide, by decide⟩
theorem OwnRow.stepStart : OwnRow.Statement .stepStart := ⟨by decide, by decide, by decide⟩
theorem OwnRow.stepAaw : OwnRow.Statement .stepAaw := ⟨by decide, by decide, by decide⟩
theorem OwnRow.stepAacAck : OwnRow.Statement .stepAacAck := ⟨by decide, by decide, by decide⟩
theorem OwnRow.stepAacNack : OwnRow.Statement .stepAacNack := ⟨by decide, by decide, by decide⟩
theorem OwnRow.stepDaw : OwnRow.Statement .stepDaw := ⟨by decide, by decide, by decide⟩
theorem OwnRow.stepDac (a : Bool) : OwnRow.Statement (.stepDac a) := by cases a <;> exact ⟨by decide, by decide, by decide⟩
theorem OwnRow.stepStop : OwnRow.Statement .stepStop := ⟨by decide, by decide, by decide⟩
theorem OwnRow.inbegin : OwnRow.Statement .inbegin := ⟨by decide, by decide, by decide⟩
theorem OwnRow.inend : OwnRow.Statement .inend := ⟨by decide, by decide, by decide⟩

end Sys2Proof.Laws
end

