-- ==== Sys2Proof/Laws/Step.lean ====
section
/-! SUPPORT. What an offer and a step can do: when one answers a next state, some operation of the table answered it. -/

namespace Sys2Proof.Machine

/-- The word of a granted serial-engine request in a legal state: its sampled bit and its code (R76). -/
theorem dispatch_event_step {s : State} {u : TState} (hi : s.seIfg = true) (he : s.seIe = true) (hts : s.ts = u.code) :
    dispatch (.event .step) s = .next (stWord (u.samples && receivedBit s) u.code) := by
  simp [dispatch, dispatchEvent, seGranted_eq, hi, he, hts, dispatchWord, ackSample]

/-- An event's dispatch word is the word of R76 in that state, for a STEP only from a granted request in a legal state. -/
theorem dispatchEvent_next {ev : Event} {s : State} {dw : Byte} (h : dispatchEvent ev s = .next dw) :
    dw = dispatchWord ev s ∧ (ev = .step → seGranted s = true ∧ ∃ t : TState, s.ts = t.code) := by
  unfold dispatchEvent at h
  split at h
  · split at h
    · rename_i hg
      split at h
      · cases h
      · rename_i u hu
        cases h
        exact ⟨rfl, fun _ => ⟨hg, u, TState.code_of_ofCode hu⟩⟩
    · cases h
  · rename_i hne
    cases h
    exact ⟨rfl, fun he => absurd he hne⟩

/-- The dispatch faults only on a STEP granted with `ts` at code 6 or 7 (R81). -/
theorem dispatchEvent_fault {ev : Event} {s : State} {f : Fault} (h : dispatchEvent ev s = .fault f) :
    ev = .step ∧ seGranted s = true ∧ (s.ts = 6#3 ∨ s.ts = 7#3) := by
  unfold dispatchEvent at h
  split at h
  · split at h
    · rename_i hg
      split at h
      · rename_i hn
        exact ⟨rfl, hg, TState.ofCode_eq_none.mp hn⟩
      · cases h
    · cases h
  · cases h

theorem assertRow_fault {r : Row} {o : Host.Outcome Byte Fault Refusal} {f : Fault} :
    assertRow r o = .fault f ↔ o = .fault f := by
  cases o with
  | next w => simp only [assertRow]; split <;> simp
  | fault g => simp [assertRow]
  | refused why => simp [assertRow]

/-- An offer's dispatch faults only with `ts` at code 6 or 7 (R81). -/
theorem dispatch_fault {o : Offer} {s : State} {f : Fault} (h : dispatch o s = .fault f) : s.ts = 6#3 ∨ s.ts = 7#3 := by
  cases o with
  | event ev => exact (dispatchEvent_fault h).2.2
  | resolved i => exact (dispatchEvent_fault (assertRow_fault.mp h)).2.2
  | word dw => cases h

theorem assertRow_next {r : Row} {o : Host.Outcome Byte Fault Refusal} {dw : Byte} :
    assertRow r o = .next dw ↔ o = .next dw ∧ r.hits dw = true := by
  cases o with
  | next w =>
    by_cases hw : r.hits w = true
    · simp only [assertRow, if_pos hw, Host.Outcome.next.injEq]
      exact ⟨fun h => ⟨h, h ▸ hw⟩, And.left⟩
    · simp only [assertRow, if_neg hw, Host.Outcome.next.injEq, reduceCtorEq, false_iff, not_and]
      exact fun h => h ▸ hw
  | fault f => simp [assertRow]
  | refused r => simp [assertRow]

theorem runWord_next {dw : Byte} {s t : State} (h : runWord dw s = .next t) :
    ∃ i, decode dw = .ok i ∧ exec i s = .next t := by
  unfold runWord at h
  split at h
  · rename_i i hi
    exact ⟨i, hi, h⟩
  · cases h

theorem offerOne_next {o : Offer} {s t : State} (h : offerOne o s = .next t) :
    ∃ dw i, dispatch o s = .next dw ∧ decode dw = .ok i ∧ exec i s = .next t := by
  unfold offerOne at h
  split at h
  · rename_i dw hd
    obtain ⟨i, hi, hx⟩ := runWord_next h
    exact ⟨dw, i, hd, hi, hx⟩
  · cases h
  · cases h

/-- An offer makes an operation occur exactly when offering it answers a next state (R10). -/
theorem occurrence_eq_some {o : Offer} {i : Instr} {s t : State} :
    occurrence o s = some (i, t) ↔ ∃ dw, dispatch o s = .next dw ∧ decode dw = .ok i ∧ exec i s = .next t := by
  constructor
  · intro h
    unfold occurrence at h
    split at h
    · rename_i dw hd
      split at h
      · rename_i j hi
        split at h
        · rename_i u hx
          cases h
          exact ⟨dw, hd, hi, hx⟩
        · cases h
        · cases h
      · cases h
    · cases h
    · cases h
  · rintro ⟨dw, hd, hi, hx⟩
    simp [occurrence, hd, hi, hx]

/-- A step that answers a next state took no offer and changed nothing, or ran one operation in the state without its offer. -/
theorem step_next {s t : State} (h : step s = .next t) :
    (s.offers = [] ∧ t = s) ∨
    ∃ o rest i, s.offers = o :: rest ∧ exec i { s with offers := rest } = .next t := by
  unfold step at h
  split at h
  · rename_i hn
    cases h
    exact .inl ⟨hn, rfl⟩
  · rename_i o rest ho
    obtain ⟨_, i, _, _, hx⟩ := offerOne_next h
    exact .inr ⟨o, rest, i, ho, hx⟩

end Sys2Proof.Machine
end

