-- ==== Sys2Proof/Tests/Slice0.lean ====
section
/-! SUPPORT. Tests with expected values from 95_test_vectors.md (the V number is cited) and from R80, R81; and one witness for each obligation that has hypotheses. -/

open Sys2Proof Sys2Proof.Machine

namespace Sys2Proof.Tests

/-! ### Helpers -/

/-- A field of the next state, none where the operation does not occur. -/
def after {α : Type} (i : Instr) (s : State) (f : State → α) : Option α :=
  match exec i s with
  | .next t => some (f t)
  | .fault _ => none
  | .refused _ => none

/-- Why an operation is refused, none where it is not. -/
def refusal (i : Instr) (s : State) : Option Refusal :=
  match exec i s with
  | .next _ => none
  | .fault _ => none
  | .refused r => some r

/-- A block in state `t` with a serial-engine request ready, nothing left to shift, and the given shift register and drive. -/
def ready (t : TState) (sr : Byte) (oe : Bool) : State :=
  { State.reset with ts := t.code, sr := sr, oe := oe, seIfg := true }

/-- A block in state `t` with a transfer pending. -/
def moving (t : TState) (sr : Byte) (cnt : Nibble) (oe : Bool) : State :=
  { State.reset with ts := t.code, sr := sr, cnt := cnt, oe := oe }

/-- The block right after reset and ARM. -/
def armed : State := { State.reset with seIfg := true }

/-- A block at rest with an input request ready. -/
def edged (data : Nibble) : State := { State.reset with data := data, inIfg := true }

/-- A block inside the hold of an input service. -/
def holding : State :=
  { State.reset with data := 9#4, inIfg := true, inIe := false, seIe := false, inBusy := true, ind := false }

/-- The elements of the transaction path. -/
structure TxnView where
  ts : Code
  data : Nibble
  sr : Byte
  cnt : Nibble
  oe : Bool
  seIfg : Bool
  tr : List TraceEvent
  deriving DecidableEq, Repr

/-- The elements of the input path. -/
structure InpView where
  data : Nibble
  seIfg : Bool
  seIe : Bool
  inIfg : Bool
  inIe : Bool
  inBusy : Bool
  ind : Bool
  tr : List TraceEvent
  deriving DecidableEq, Repr

def txn (t : State) : TxnView := ⟨t.ts, t.data, t.sr, t.cnt, t.oe, t.seIfg, t.tr⟩
def inp (t : State) : InpView := ⟨t.data, t.seIfg, t.seIe, t.inIfg, t.inIe, t.inBusy, t.ind, t.tr⟩

/-! ### WellFormed smoke: one ill-formed term for each check -/

theorem test_wf_word_ev_low_bits : canonicalWord 0x1F#8 = false ∧ canonicalWord 0x00#8 = true := by decide
theorem test_wf_word_sh_low_bits : canonicalWord 0x7F#8 = false ∧ canonicalWord 0x70#8 = true := by decide
theorem test_wf_word_ev_bit_four : canonicalWord 0x50#8 = false ∧ canonicalWord 0x94#8 = true := by decide
theorem test_wf_address_write_bit : slaveAddrOk 0x91#8 = false ∧ slaveAddrOk 0x90#8 = true := by decide
theorem test_wf_transfer_width : transferWidthOk 2#4 = false ∧ transferWidthOk 0#4 = false ∧ transferWidthOk 9#4 = false := by
  decide
theorem test_wf_parameters : configOk = true := by decide
theorem test_wf_every_operand : Instr.wf (.stepDac true) = true ∧ Instr.wf (.shift false) = true := by decide

/-! ### Decoding: words written out bit by bit from R70 to R73 and R80 -/

theorem test_decode_host : decode 0b00000000#8 = .ok .reset ∧ decode 0b00100000#8 = .ok .arm := by decide
theorem test_decode_input :
    decode 0b01000000#8 = .ok .edge ∧ decode 0b10100000#8 = .ok .inbegin ∧ decode 0b11000000#8 = .ok .inend := by decide
theorem test_decode_shift : decode 0b01100000#8 = .ok (.shift false) ∧ decode 0b01110000#8 = .ok (.shift true) := by decide
theorem test_decode_step_address :
    decode 0b10000000#8 = .ok .stepStart ∧ decode 0b10000001#8 = .ok .stepAaw ∧
    decode 0b10000010#8 = .ok .stepAacAck ∧ decode 0b10010010#8 = .ok .stepAacNack := by decide
theorem test_decode_step_data :
    decode 0b10000011#8 = .ok .stepDaw ∧ decode 0b10000100#8 = .ok (.stepDac false) ∧
    decode 0b10010100#8 = .ok (.stepDac true) ∧ decode 0b10000101#8 = .ok .stepStop := by decide
theorem test_decode_rejects :
    decode 0b11100000#8 = .error .noEvent ∧ decode 0b10001000#8 = .error .bit3Set ∧
    decode 0b10000110#8 = .error .noStateCode ∧ decode 0b10010111#8 = .error .noStateCode ∧
    decode 0b10010000#8 = .error .sampledBitWithoutSampler := by decide

/-! ### One step on a small state -/

/-- V65: RESET in the middle of a data byte. `sr` is a free value and is not looked at. -/
theorem test_reset_mid_byte :
    after .reset { moving .dataAckWait 0x14#8 6#4 true with data := 5#4 } (fun t => txn { t with sr := 0#8 }) =
      some ⟨0#3, 0#4, 0#8, 0#4, false, false, [.rst]⟩ := by decide
/-- V66: RESET inside the hold. -/
theorem test_reset_in_hold :
    after .reset holding inp = some ⟨0#4, false, true, false, true, false, true, [.rst]⟩ := by decide
/-- V64: ARM during the hold at rest. -/
theorem test_arm_in_hold :
    after .arm holding (fun t => (t.seIfg, t.seIe, t.inBusy)) = some (true, false, true) := by decide
/-- V62, V63: ARM refused outside rest. -/
theorem test_arm_busy :
    refusal .arm (moving .addrAckWait 0x90#8 5#4 true) = some .armWhileBusy ∧
    refusal .arm (ready .addrAckWait 0x90#8 true) = some .armWhileBusy := by decide
/-- V40, V42: EDGE, at rest and inside the hold. -/
theorem test_edge :
    after .edge State.reset State.inIfg = some true ∧
    after .edge { holding with inIfg := false } inp = some ⟨9#4, false, false, true, false, true, false, []⟩ := by decide
/-- V20, V23: a driven 1 sampled as it is, and pulled low by the environment. -/
theorem test_shift_driven :
    after (.shift true) (moving .addrAckWait 0x90#8 8#4 true) txn =
      some ⟨1#3, 0#4, 0x21#8, 7#4, true, false, [.bit (.driven true) true]⟩ ∧
    after (.shift false) (moving .addrAckWait 0x90#8 8#4 true) txn =
      some ⟨1#3, 0#4, 0x20#8, 7#4, true, false, [.bit (.driven true) false]⟩ := by decide
/-- V25, V30: the ack slot sampled high and completed, and no SHIFT without a pending transfer. -/
theorem test_shift_released :
    after (.shift true) (moving .addrAckCheck 0x90#8 1#4 false) txn =
      some ⟨2#3, 0#4, 0x21#8, 0#4, false, true, [.bit .z true]⟩ ∧
    refusal (.shift true) State.reset = some .shiftNotEnabled := by decide
/-- V3: the received bit does not matter in Start. -/
theorem test_step_start :
    after .stepStart (ready .start 0x01#8 false) txn = some ⟨1#3, 0#4, 0x90#8, 8#4, true, false, [.start]⟩ := by decide
/-- V14, V15: a STEP leaves a pending input request alone, and waits out the hold. -/
theorem test_step_start_and_input :
    after .stepStart { armed with inIfg := true } (fun t => (t.inIfg, t.inIe)) = some (true, true) ∧
    refusal .stepStart { holding with seIfg := true } = some .stepNotEnabled := by decide
/-- V4. -/
theorem test_step_aaw :
    after .stepAaw (ready .addrAckWait 0x90#8 true) txn = some ⟨2#3, 0#4, 0x90#8, 1#4, false, false, []⟩ := by decide
/-- V6, V9: the zero-extended data, and only bit 0 decides. -/
theorem test_step_aac_ack :
    after .stepAacAck { ready .addrAckCheck 0x20#8 false with data := 15#4 } txn =
      some ⟨3#3, 15#4, 0x0F#8, 8#4, true, false, []⟩ ∧
    after .stepAacAck (ready .addrAckCheck 0xFE#8 false) txn = some ⟨3#3, 0#4, 0x00#8, 8#4, true, false, []⟩ := by decide
/-- V8. -/
theorem test_step_aac_nack :
    after .stepAacNack { ready .addrAckCheck 0x21#8 false with data := 5#4 } txn =
      some ⟨5#3, 5#4, 0x00#8, 1#4, true, false, []⟩ := by decide
/-- The sampled bit selects one of the two, never both (R90). -/
theorem test_step_aac_wrong_bit :
    refusal .stepAacAck (ready .addrAckCheck 0x21#8 false) = some .stepNotSelected ∧
    refusal .stepAacNack (ready .addrAckCheck 0x20#8 false) = some .stepNotSelected := by decide
/-- V10. -/
theorem test_step_daw :
    after .stepDaw (ready .dataAckWait 0x05#8 true) txn = some ⟨4#3, 0#4, 0x05#8, 1#4, false, false, []⟩ := by decide
/-- V11, V12. -/
theorem test_step_dac :
    after (.stepDac false) (ready .dataAckCheck 0x0A#8 false) txn = some ⟨5#3, 0#4, 0x00#8, 1#4, true, false, []⟩ ∧
    after (.stepDac true) (ready .dataAckCheck 0x0B#8 false) txn = some ⟨5#3, 0#4, 0x00#8, 1#4, true, false, []⟩ := by decide
/-- V13. -/
theorem test_step_stop :
    after .stepStop (ready .stop 0x00#8 true) txn = some ⟨0#3, 0#4, 0xFF#8, 0#4, false, false, [.stop, .wake]⟩ := by decide
/-- V44, V45: the increment and its wrap. -/
theorem test_inbegin :
    after .inbegin (edged 14#4) inp = some ⟨15#4, false, false, true, false, true, false, [.ind false]⟩ ∧
    after .inbegin (edged 15#4) inp = some ⟨0#4, false, false, true, false, true, false, [.ind false]⟩ := by decide
/-- V46, V47. -/
theorem test_inbegin_not_enabled :
    refusal .inbegin holding = some .inbeginNotEnabled ∧ refusal .inbegin State.reset = some .inbeginNotEnabled := by decide
/-- V49: the serial-engine request survives the hold. -/
theorem test_inend :
    after .inend { holding with seIfg := true } inp = some ⟨9#4, true, true, false, true, false, true, [.ind true]⟩ := by decide
/-- V50. -/
theorem test_inend_not_enabled : refusal .inend State.reset = some .inendNotEnabled := by decide
/-- V84: the byte is what the master presented. -/
theorem test_bytes_presented :
    bytes [.start, .bit (.driven true) false, .bit (.driven false) false, .bit (.driven false) false,
      .bit (.driven true) true, .bit (.driven false) false, .bit (.driven false) false, .bit (.driven false) false,
      .bit (.driven false) false, .bit .z true, .bit (.driven false) false, .stop] = some [(0x90#8, true)] := by decide
/-- R109: after STEP.START the line stays low although `sr[7] = 1`; the first SHIFT presents it. After an ack slot it stays released. -/
theorem test_drive_held :
    after .stepStart (ready .start 0x01#8 false) (fun t => (t.sr.getLsbD 7, sdaPulledLow t)) = some (true, true) ∧
    after (.shift true) (moving .addrAckWait 0x90#8 8#4 true) sdaDrive = some (.driven true) ∧
    after .stepAacAck { ready .addrAckCheck 0x20#8 false with tr := [.bit .z false] } sdaDrive = some .z := by decide
/-- R109: through the pass-through the drive follows `sr[7]` at once. -/
theorem test_drive_pass_through :
    sdaDrive (setGe true (setOe true (loadSr 0x00#8 State.reset))) = .driven false ∧
    sdaDrive (setGe true (loadSr 0xFF#8 (ready .stop 0x00#8 true))) = .driven true := by decide
/-- R82: a resolved STEP.DAC has the word of R76, and a mnemonic that is not the one that runs has none. -/
theorem test_script_resolved :
    encodeScript [.resolved (.stepDac false)] (ready .dataAckCheck 0x0B#8 false) = some [0x94#8] ∧
    encodeScript [.resolved .stepAacAck] (ready .addrAckCheck 0x21#8 false) = none := by decide
/-- A word placed for the next step is the one that runs. -/
theorem test_placed_word :
    (match step (State.reset.withFetchWord 8 0x92) with
      | .next t => some (t.ts, t.sr, t.cnt, t.oe)
      | .fault _ => none
      | .refused _ => none) = some (5#3, 0x00#8, 1#4, true) := by decide

/-! ### Witnesses: concrete inputs that meet the hypotheses of the obligations, together -/

theorem test_inv_armed : Invariants armed := by
  refine ⟨⟨.start, rfl⟩, ?_, ?_, ?_, ?_, ?_, ?_, ?_, ?_, ?_, ?_, ?_, ?_⟩ <;> decide
theorem test_inv_holding : Invariants holding := by
  refine ⟨⟨.start, rfl⟩, ?_, ?_, ?_, ?_, ?_, ?_, ?_, ?_, ?_, ?_, ?_, ?_⟩ <;> decide
theorem test_inv_check (a : Bool) :
    Invariants { ready .addrAckCheck (if a then 0x21#8 else 0x20#8) false with inIfg := true } := by
  refine ⟨⟨.addrAckCheck, rfl⟩, ?_, ?_, ?_, ?_, ?_, ?_, ?_, ?_, ?_, ?_, ?_, ?_⟩ <;> revert a <;> decide

theorem test_wit_EncodeDecodeRoundTrip :
    Instr.wf .stepAacNack = true ∧ decode 0x1F#8 = .ok .reset ∧ decode 0x7F#8 = .ok (.shift true) ∧
    decode 0x94#8 = .ok (.stepDac true) := by decide
theorem test_wit_DecodeAgreesWithOpcodeMap :
    decode 0x94#8 = .ok (.stepDac true) ∧ Instr.row (.stepDac false) ∈ opcodeRows ∧
    (Instr.row (.stepDac false)).hits 0x94#8 = true := by decide
theorem test_wit_StepRunsDecodedInstruction :
    { armed with offers := [.event .step] }.offers = [.event .step] ∧
    dispatch (.event .step) { armed with offers := [] } = .next 0x80#8 ∧ decode 0x80#8 = .ok .stepStart := ⟨rfl, rfl, rfl⟩
theorem test_wit_StepWithoutAnOperation :
    State.reset.offers = [] ∧
    (dispatch (.word 0xFF#8) State.reset = .next 0xFF#8 ∧ decode 0xFF#8 = .error .noEvent) ∧
    dispatch (.event .step) State.reset = .refused .stepNotEnabled ∧
    dispatch (.event .step) { armed with ts := 6#3 } = .fault .illegalState := ⟨rfl, ⟨rfl, rfl⟩, rfl, rfl⟩
theorem test_wit_StepConsumesOneOffer : ∃ t, step { armed with offers := [.event .step, .event .edge] } = .next t := ⟨_, rfl⟩
theorem test_wit_EventsDispatchToTheirOperations :
    (armed.seIfg = true ∧ armed.seIe = true ∧ armed.ts = 0#3) ∧
    (∀ t : TState, (ready t 0x20#8 false).seIfg = true ∧ (ready t 0x20#8 false).seIe = true ∧ (ready t 0x20#8 false).ts = t.code) ∧
    (ready .addrAckCheck 0x20#8 false).sr.getLsbD 0 = false ∧ (ready .addrAckCheck 0x21#8 false).sr.getLsbD 0 = true ∧
    selectedStep (ready .dataAckCheck 0x0B#8 false) = some (.stepDac true) ∧ isStep (.shift true) = false :=
  ⟨⟨rfl, rfl, rfl⟩, fun _ => ⟨rfl, rfl, rfl⟩, rfl, rfl, rfl, rfl⟩
theorem test_wit_InvariantsExcludeInvalidWordsAndFaults :
    Invariants armed ∧ dispatch (.event .step) armed = .next 0x80#8 := ⟨test_inv_armed, rfl⟩
/-- StepStartResult to StepStopResult; the last clause of HoldExcludesBothHandlers. -/
theorem test_wit_steps :
    (∀ t : TState, (ready t 0x21#8 true).seIfg = true ∧ (ready t 0x21#8 true).seIe = true ∧ (ready t 0x21#8 true).ts = t.code) ∧
    (ready .addrAckCheck 0x20#8 true).sr.getLsbD 0 = false ∧ (ready .addrAckCheck 0x21#8 true).sr.getLsbD 0 = true ∧
    (ready .stop 0x00#8 true).cnt = 0#4 ∧
    ∃ t, exec .stepStop (ready .stop 0x00#8 true) = .next t :=
  ⟨fun _ => ⟨rfl, rfl, rfl⟩, rfl, rfl, rfl, _, rfl⟩
theorem test_wit_StepAawResult :
    ∃ t u, exec .stepAaw (ready .addrAckWait 0x90#8 true) = .next t ∧ exec (.shift true) t = .next u := ⟨_, _, rfl, rfl⟩
theorem test_wit_StepDawResult :
    ∃ t u, exec .stepDaw (ready .dataAckWait 0x05#8 true) = .next t ∧ exec (.shift false) t = .next u := ⟨_, _, rfl, rfl⟩
theorem test_wit_StepsThatDoNotOccur :
    isStep .stepStop = true ∧ ¬ (State.reset.seIfg = true ∧ State.reset.seIe = true) ∧
    ({ armed with ts := 6#3 }.ts = 6#3 ∧ { armed with ts := 7#3 }.ts = 7#3) ∧
    selectedStep armed = some .stepStart ∧ Instr.row .stepStop ≠ Instr.row .stepStart := by decide
theorem test_wit_StateTransitionRelation :
    ∃ t, exec .stepStart armed = .next t ∧ t.ts ≠ armed.ts := ⟨_, rfl, by decide⟩
theorem test_wit_OneStepPerInterrupt :
    (∃ t, exec .stepStart armed = .next t ∧ t.ts ≠ armed.ts) ∧ isStep .stepStart = true ∧
    (∃ t, exec .arm State.reset = .next t ∧ State.reset.seIfg = false ∧ t.seIfg = true) ∧
    (∃ t, exec (.shift true) (moving .stop 0x00#8 1#4 true) = .next t ∧
      (moving .stop 0x00#8 1#4 true).seIfg = false ∧ t.seIfg = true) :=
  ⟨⟨_, rfl, by decide⟩, rfl, ⟨_, rfl, rfl, rfl⟩, ⟨_, rfl, rfl, rfl⟩⟩
theorem test_wit_ShiftResult :
    State.reset.cnt = 0#4 ∧ (moving .stop 0x00#8 1#4 true).cnt ≠ 0#4 ∧ (moving .stop 0x00#8 1#4 true).oe = true ∧
    (moving .addrAckCheck 0x90#8 8#4 false).cnt ≠ 0#4 ∧ (moving .addrAckCheck 0x90#8 8#4 false).oe = false := by decide
theorem test_wit_ByteGoesOutMostSignificantFirst :
    (List.replicate 8 true).length = 8 ∧ (moving .addrAckWait 0x90#8 8#4 true).oe = true ∧
    (moving .addrAckWait 0x90#8 8#4 true).cnt = 8#4 := by decide
theorem test_wit_DrivenBitContentionIsUnnoticed :
    (moving .stop 0x00#8 1#4 true).oe = true ∧ (moving .stop 0x00#8 1#4 true).cnt ≠ 0#4 ∧
    (moving .stop 0x00#8 1#4 true).sr.getLsbD 7 = false := by decide
theorem test_wit_InbeginResult :
    ((edged 15#4).inIfg = true ∧ (edged 15#4).inIe = true) ∧ ¬ (State.reset.inIfg = true ∧ State.reset.inIe = true) ∧
    Invariants armed ∧ armed.inIe = true := ⟨⟨rfl, rfl⟩, by decide, test_inv_armed, rfl⟩
theorem test_wit_InendResult : holding.inBusy = true ∧ State.reset.inBusy = false := by decide
theorem test_wit_DataIncrementsModuloSixteen :
    (∃ t, exec .inbegin (edged 14#4) = .next t ∧ (edged 14#4).data.toNat ≤ 14) ∧
    (∃ t, exec .inbegin (edged 0#4) = .next t ∧ (edged 0#4).data.toNat ≤ 14) ∧
    (∃ t, exec .inbegin (edged 15#4) = .next t ∧ (edged 15#4).data = 15#4) ∧
    (∃ t, exec .edge State.reset = .next t) ∧ State.reset.inIe = true :=
  ⟨⟨_, rfl, by decide⟩, ⟨_, rfl, by decide⟩, ⟨_, rfl, rfl⟩, ⟨_, rfl⟩, rfl⟩
/-- EdgesAreLostOrMerged and HoldExcludesBothHandlers: a hold with an edge and a shift in it. -/
theorem test_wit_hold :
    ∃ t u, exec .inbegin { moving .stop 0x00#8 1#4 true with inIfg := true } = .next t ∧
      (∀ i ∈ [Instr.edge, .shift true], (i = .edge ∨ isShift i = true) ∧ i ≠ .reset ∧ i ≠ .inend) ∧
      runInstrs [.edge, .shift true] t = .next u := ⟨_, _, rfl, by decide, rfl⟩
theorem test_wit_EdgesAreLostOrMerged : ∃ t, exec .edge State.reset = .next t := ⟨_, rfl⟩
theorem test_wit_ArmResult :
    (State.reset.ts = 0#3 ∧ State.reset.cnt = 0#4) ∧
    ¬ ((ready .addrAckWait 0x90#8 true).ts = 0#3 ∧ (ready .addrAckWait 0x90#8 true).cnt = 0#4) := by decide
theorem test_wit_OnlyOwnersWrite : ∃ t, exec .stepStop (ready .stop 0x00#8 true) = .next t ∧ Instr.stepStop ≠ .reset :=
  ⟨_, rfl, by decide⟩
theorem test_wit_TraceGrowsByTheOperationsEvents :
    (∃ t, exec .reset State.reset = .next t) ∧ (∃ t, exec .stepStart armed = .next t) ∧
    (∃ t, exec .inbegin (edged 0#4) = .next t) ∧ (∃ t, exec .inend holding = .next t) ∧
    (∃ t, exec (.shift true) (moving .stop 0x00#8 1#4 true) = .next t) ∧
    (∃ t, exec .stepStop (ready .stop 0x00#8 true) = .next t) ∧ (∃ t, exec .arm State.reset = .next t) ∧
    ∃ t, exec (.stepDac true) (ready .dataAckCheck 0x0B#8 false) = .next t :=
  ⟨⟨_, rfl⟩, ⟨_, rfl⟩, ⟨_, rfl⟩, ⟨_, rfl⟩, ⟨_, rfl⟩, ⟨_, rfl⟩, ⟨_, rfl⟩, _, rfl⟩
theorem test_wit_StepKeepsInvariants :
    Invariants { armed with offers := [.event .step] } ∧ ∃ t, step { armed with offers := [.event .step] } = .next t := by
  refine ⟨⟨⟨.start, rfl⟩, ?_, ?_, ?_, ?_, ?_, ?_, ?_, ?_, ?_, ?_, ?_, ?_⟩, _, rfl⟩ <;> decide
theorem test_wit_QuiescentIffNothingInternalEnabled : Invariants State.reset ∧ quiescent State.reset := by
  refine ⟨⟨⟨.start, rfl⟩, ?_, ?_, ?_, ?_, ?_, ?_, ?_, ?_, ?_, ?_, ?_, ?_⟩, ⟨rfl, rfl, rfl, rfl, rfl⟩⟩ <;> decide
theorem test_wit_ShiftRegisterUnreadBeforeStart :
    armed.ts = 0#3 ∧ armed.cnt = 0#4 ∧ (∃ t, exec .stepStart armed = .next t) ∧
    ∃ r, exec .stepStop armed = .refused r := ⟨rfl, rfl, ⟨_, rfl⟩, ⟨_, rfl⟩⟩
theorem test_wit_ScriptWordsAreTheDispatchFunctions :
    (∃ ws, encodeOffers [.event .edge, .word 0x84#8] (ready .dataAckCheck 0x0B#8 false) = some ws) ∧
    isStep (.stepDac false) = true ∧
    (∃ dw, dispatch (.resolved (.stepDac false)) (ready .dataAckCheck 0x0B#8 false) = .next dw) ∧
    (∃ t, offerOne (.resolved (.stepDac false)) (ready .dataAckCheck 0x0B#8 false) = .next t) ∧
    (ready .dataAckCheck 0x0B#8 false).ts = 4#3 ∧ (ready .dataAckCheck 0x0B#8 false).seIfg = true ∧
    (ready .dataAckCheck 0x0B#8 false).seIe = true := ⟨⟨_, rfl⟩, rfl, ⟨_, rfl⟩, ⟨_, rfl⟩, rfl, rfl, rfl⟩
theorem test_wit_DriveFollowsShiftPassThroughOutputEnableAndReset :
    (setGe true (setOe true State.reset)).ge = true ∧ (setGe true (setOe true State.reset)).oe = true ∧
    State.reset.oe = false ∧ armed.ge = false ∧ (∃ t, exec .stepStart armed = .next t) ∧
    (∃ t, exec (.shift true) (moving .stop 0x00#8 1#4 true) = .next t) ∧
    (∃ t, exec .stepStop (ready .stop 0x00#8 true) = .next t) ∧
    (∃ t, exec .stepAaw (ready .addrAckWait 0x90#8 true) = .next t) ∧
    (∃ t, exec .edge State.reset = .next t ∧ t.oe = State.reset.oe) ∧
    ∃ t, exec .stepAacAck (ready .addrAckCheck 0x20#8 false) = .next t ∧ t.oe = true :=
  ⟨rfl, rfl, rfl, rfl, ⟨_, rfl⟩, ⟨_, rfl⟩, ⟨_, rfl⟩, ⟨_, rfl⟩, ⟨_, rfl, rfl⟩, _, rfl, rfl⟩
/-- DataReadOnlyWhenDataPhaseStarts and TraceAndIndicatorAreNeverRead. -/
theorem test_wit_unread : ∃ t, exec .stepStart armed = .next t ∧ Instr.stepStart ≠ .stepAacAck := ⟨_, rfl, by decide⟩
theorem test_wit_ArbitrationOrdersConverge (a : Bool) :
    let s := { ready .addrAckCheck (if a then 0x21#8 else 0x20#8) false with inIfg := true }
    Invariants s ∧ s.seIfg = true ∧ s.seIe = true ∧ s.inIfg = true ∧ s.inIe = true ∧
    selectedStep s = some (if a then .stepAacNack else .stepAacAck) :=
  ⟨test_inv_check a, rfl, rfl, rfl, rfl, by revert a; decide⟩
theorem test_wit_ArbiterPolicies : arbGrantsSe .inFirst true true = false ∧ arbGrantsIn .inFirst true true = true := by decide
theorem test_wit_DataNackIsSilent :
    (moving .dataAckCheck 0x05#8 1#4 false).ts = 4#3 ∧ (moving .dataAckCheck 0x05#8 1#4 false).oe = false ∧
    (moving .dataAckCheck 0x05#8 1#4 false).cnt = 1#4 ∧ (moving .dataAckCheck 0x05#8 1#4 false).seIe = true := by decide
/-- AcknowledgedTransaction and UnacknowledgedTransaction. -/
theorem test_wit_transactions :
    (List.replicate 8 true).length = 8 ∧ armed.ts = 0#3 ∧ armed.cnt = 0#4 ∧ armed.seIfg = true ∧ armed.seIe = true := by decide

/-- A transaction with contention on its first bit, up to its STEP.STOP. -/
def contended : List Bool := false :: List.replicate 7 true
theorem test_wit_CompletedTransactionCounts_acknowledged :
    Invariants armed ∧ armed.ts = 0#3 ∧ armed.seIfg = true ∧
    (∀ i ∈ (ackPath contended contended true false).dropLast, i ≠ .reset ∧ i ≠ .stepStop) ∧
    ∃ t, runInstrs ((ackPath contended contended true false).dropLast ++ [.stepStop]) armed = .next t :=
  ⟨test_inv_armed, rfl, rfl, by decide, _, rfl⟩
theorem test_wit_CompletedTransactionCounts_not_acknowledged :
    Invariants armed ∧ armed.ts = 0#3 ∧ armed.seIfg = true ∧
    (∀ i ∈ (nackPath contended true).dropLast, i ≠ .reset ∧ i ≠ .stepStop) ∧
    ∃ t, runInstrs ((nackPath contended true).dropLast ++ [.stepStop]) armed = .next t :=
  ⟨test_inv_armed, rfl, rfl, by decide, _, rfl⟩

/-! A fair execution: the transaction of `nackPath`, then nothing for ever. -/

def fairOps : List Instr := nackPath contended true
def fairOp (n : Nat) : Option Instr := fairOps[n]?
def fairState (n : Nat) : State :=
  match runInstrs (fairOps.take n) armed with
  | .next t => t
  | .fault _ => armed
  | .refused _ => armed

theorem fairState_end (n : Nat) (h : 14 ≤ n) : fairState n = fairState 14 := by
  have hn : fairOps.take n = fairOps.take 14 := by
    rw [List.take_of_length_le (show fairOps.length ≤ n from h), List.take_of_length_le (show fairOps.length ≤ 14 by decide)]
  simp only [fairState, hn]

theorem fairState_isExecution : IsExecution fairState fairOp := by
  intro n
  rcases Nat.lt_or_ge n 14 with h | h
  · interval_cases n <;> rfl
  · rw [show fairOp n = none from List.getElem?_eq_none h]
    exact (fairState_end (n + 1) (by omega)).trans (fairState_end n h).symm

/-- Nothing internal is enabled once the transaction has ended. -/
theorem fairState_end_quiet (i : Instr) (h : enabled i (fairState 14)) : isInternal i = false := by
  obtain ⟨t, h⟩ := h
  have hf : (fairState 14).seIfg = false := by decide
  have hn : (fairState 14).inIfg = false := by decide
  have hb : (fairState 14).inBusy = false := by decide
  have hc : (fairState 14).cnt = 0#4 := by decide
  cases i with
  | reset => rfl
  | arm => rfl
  | edge => rfl
  | shift e => exact absurd hc (execShift_next h).1
  | stepStart => have := (execStepStart_next h).1; rw [hf] at this; cases this
  | stepAaw => have := (execStepAaw_next h).1; rw [hf] at this; cases this
  | stepAacAck => have := (execStepAacAck_next h).1; rw [hf] at this; cases this
  | stepAacNack => have := (execStepAacNack_next h).1; rw [hf] at this; cases this
  | stepDaw => have := (execStepDaw_next h).1; rw [hf] at this; cases this
  | stepDac a => have := (execStepDac_next h).1; rw [hf] at this; cases this
  | stepStop => have := (execStepStop_next h).1; rw [hf] at this; cases this
  | inbegin => have := (execInbegin_next h).1; rw [hn] at this; cases this
  | inend => have := (execInend_next h).1; rw [hb] at this; cases this

theorem fairState_weaklyFair (cls : Instr → Bool) (hc : ∀ i, cls i = true → isInternal i = true) :
    WeaklyFair cls fairState fairOp := by
  intro n h
  obtain ⟨i, hi, he⟩ := h (max n 14) (Nat.le_max_left ..)
  rw [fairState_end _ (Nat.le_max_right ..)] at he
  have := fairState_end_quiet i he
  rw [hc i hi] at this
  cases this

theorem test_wit_FairEngineCompletesTransaction :
    IsExecution fairState fairOp ∧ FairEngine fairState fairOp ∧ Invariants (fairState 0) ∧ (fairState 0).ts = 0#3 ∧
    (fairState 0).seIfg = true ∧ (∀ n, fairOp n ≠ some .reset) ∧ ∃ n, ∀ m, n ≤ m → fairOp m ≠ some .edge := by
  refine ⟨fairState_isExecution, ⟨?_, ?_, ?_, ?_⟩, test_inv_armed, rfl, rfl, fun n h => ?_, 0, fun m _ h => ?_⟩
  · exact fairState_weaklyFair _ fun i h => by simp [isInternal, h]
  · exact fairState_weaklyFair _ fun i h => by simp [isInternal, h]
  · exact fairState_weaklyFair _ fun i h => by simp_all [isInternal]
  · exact fairState_weaklyFair _ fun i h => by simp_all [isInternal]
  · exact absurd (List.mem_of_getElem? h) (by decide)
  · exact absurd (List.mem_of_getElem? h) (by decide)

end Sys2Proof.Tests
end

section
/-! PROOF. A step through its offer, dispatch and decode, one equation per case; and the scope statements derived from them. -/

namespace Sys2Proof.Machine

variable {s : State} {o : Offer}

/-! ### Equations of the step, the offer and the run of a word -/

theorem step_of_offers_nil (h : s.offers = []) : step s = .next s := by simp [step, h]

/-- A step is the offer of the next event in the state without that offer (R10). -/
theorem step_of_offers_cons {rest : List Offer} (h : s.offers = o :: rest) :
    step s = offerOne o { s with offers := rest } := by simp [step, h]

theorem offerOne_of_dispatch_next {dw : Byte} (h : dispatch o s = .next dw) : offerOne o s = runWord dw s := by
  simp [offerOne, h]

theorem offerOne_of_dispatch_refused {r : Refusal} (h : dispatch o s = .refused r) : offerOne o s = .refused r := by
  simp [offerOne, h]

theorem offerOne_of_dispatch_fault {f : Fault} (h : dispatch o s = .fault f) : offerOne o s = .fault f := by
  simp [offerOne, h]

theorem runWord_of_decode_error {dw : Byte} {why : DecodeError} (h : decode dw = .error why) :
    runWord dw s = .refused (.invalidWord why) := by simp [runWord, h]

/-! ### The obligations -/

/-- Settles O6: each clause follows the step to its offer, and the offer to what its dispatch answers; a word that does not decode ends in
`runWord`. -/
theorem stepWithoutAnOperation : Obligations.StepWithoutAnOperation := by
  refine ⟨fun s h => step_of_offers_nil h, fun s o rest dw why ho hd hw => ?invalidWord,
    fun s o rest r ho hd => ?refused, fun s o rest f ho hd => ?fault⟩
  case invalidWord => rw [step_of_offers_cons ho, offerOne_of_dispatch_next hd, runWord_of_decode_error hw]
  case refused => rw [step_of_offers_cons ho, offerOne_of_dispatch_refused hd]
  case fault => rw [step_of_offers_cons ho, offerOne_of_dispatch_fault hd]

end Sys2Proof.Machine
end

section
/-! PROOF. What `exec` does, as three functions of the operation and the state: when the operation occurs, the state it leaves, and
the reason it is refused for. One lemma ties each to `exec`; frames, invariants and noninterference then speak of these functions. -/

namespace Sys2Proof.Machine

/-! ### The three functions -/

/-- The enabling of a STEP: its request ready, `ts` its own state, its sampled bit (R90). -/
def stepReady (here : TState) (admits : Bool) (s : State) : Prop :=
  s.seIfg = true ∧ s.seIe = true ∧ s.ts = here.code ∧ admits = true

/-- The condition under which an operation occurs. -/
def canOccur : Instr → State → Prop
  | .reset, _ => True
  | .arm, s => s.ts = TState.start.code ∧ s.cnt = 0#4
  | .edge, _ => True
  | .shift _, s => s.cnt ≠ 0#4
  | .stepStart, s => stepReady .start true s
  | .stepAaw, s => stepReady .addrAckWait true s
  | .stepAacAck, s => stepReady .addrAckCheck (!receivedBit s) s
  | .stepAacNack, s => stepReady .addrAckCheck (receivedBit s) s
  | .stepDaw, s => stepReady .dataAckWait true s
  | .stepDac _, s => stepReady .dataAckCheck true s
  | .stepStop, s => stepReady .stop true s
  | .inbegin, s => s.inIfg = true ∧ s.inIe = true
  | .inend, s => s.inBusy = true

/-- The events an operation appends to the trace (R33). -/
def eventsOf : Instr → State → List TraceEvent
  | .reset, _ => [.rst]
  | .arm, _ => []
  | .edge, _ => []
  | .shift e, s => [.bit (presented s) (sampledLevel (presented s) e)]
  | .stepStart, _ => [.start]
  | .stepAaw, _ => []
  | .stepAacAck, _ => []
  | .stepAacNack, _ => []
  | .stepDaw, _ => []
  | .stepDac _, _ => []
  | .stepStop, _ => [.stop, .wake]
  | .inbegin, _ => [.ind false]
  | .inend, _ => [.ind true]

/-- The registers, flags and outputs an operation leaves when it occurs, the trace still as it was. -/
def registersAfter : Instr → State → State
  | .reset, s => { s with
      ts := TState.start.code, data := 0#4, sr := Config.srReset s.draws, cnt := 0#4, oe := false, ge := false,
      seIfg := false, seIe := true, inIfg := false, inIe := true, inBusy := false, ind := true, draws := s.draws + 1 }
  | .arm, s => { s with seIfg := true }
  | .edge, s => { s with inIfg := true }
  | .shift e, s => { s with
      sr := shiftIn s.sr (sampledLevel (presented s) e), cnt := s.cnt - 1#4,
      seIfg := flagAfterShift (s.cnt - 1#4) s.seIfg }
  | .stepStart, s => { s with
      ts := TState.addrAckWait.code, sr := 0x90#8, cnt := 8#4, oe := true, ge := false, seIfg := false }
  | .stepAaw, s => { s with ts := TState.addrAckCheck.code, cnt := 1#4, oe := false, seIfg := false }
  | .stepAacAck, s => { s with
      ts := TState.dataAckWait.code, sr := s.data.setWidth 8, cnt := 8#4, oe := true, seIfg := false }
  | .stepAacNack, s => { s with ts := TState.stop.code, sr := 0x00#8, cnt := 1#4, oe := true, seIfg := false }
  | .stepDaw, s => { s with ts := TState.dataAckCheck.code, cnt := 1#4, oe := false, seIfg := false }
  | .stepDac _, s => { s with ts := TState.stop.code, sr := 0x00#8, cnt := 1#4, oe := true, seIfg := false }
  | .stepStop, s => { s with ts := TState.start.code, sr := 0xFF#8, oe := false, ge := false, seIfg := false }
  | .inbegin, s => { s with seIe := false, inIe := false, data := s.data + 1#4, ind := false, inBusy := true }
  | .inend, s => { s with ind := true, inIfg := false, inIe := true, seIe := true, inBusy := false }

/-- The next state of an operation that occurs. -/
def effect (i : Instr) (s : State) : State := { registersAfter i s with tr := s.tr ++ eventsOf i s }

/-- The reason an operation that does not occur is refused for, `ts` being a state's code. RESET and EDGE always occur and are never refused. -/
def refusalOf : Instr → State → Refusal
  | .arm, _ => .armWhileBusy
  | .shift _, _ => .shiftNotEnabled
  | .inbegin, _ => .inbeginNotEnabled
  | .inend, _ => .inendNotEnabled
  | _, s => if seGranted s then .stepNotSelected else .stepNotEnabled

/-! ### The service of a STEP -/

section
variable {here : TState} {admits : Bool} {body : State → State} {s t : State}

theorem stepReady_of_next (h : stepService here admits body s = .next t) : stepReady here admits s := by
  obtain ⟨hi, he, hts, ha, -⟩ := stepService_next h
  exact ⟨hi, he, hts, ha⟩

theorem stepService_of_stepReady (h : stepReady here admits s) :
    stepService here admits body s = .next (serviceFrame body s) := by
  obtain ⟨hi, he, hts, ha⟩ := h
  exact stepService_enabled hi he hts ha

/-- A STEP that does not occur in a legal state is refused, for its request or for the selection (R76, R90). -/
theorem stepService_of_not_stepReady {u : TState} (hts : s.ts = u.code) (h : ¬ stepReady here admits s) :
    stepService here admits body s = .refused (if seGranted s then .stepNotSelected else .stepNotEnabled) := by
  by_cases hg : seGranted s = true
  · obtain ⟨hi, he⟩ := seGranted_iff.mp hg
    rw [if_pos hg]
    exact stepService_not_selected hi he hts fun ⟨hu, ha⟩ => h ⟨hi, he, hu ▸ hts, ha⟩
  · rw [if_neg hg]
    exact stepService_not_ready fun hr => hg (seGranted_iff.mpr hr)

end

/-! ### The lemmas that tie them to `exec` -/

section
variable {i : Instr} {s t : State}

theorem canOccur_of_exec_next (h : exec i s = .next t) : canOccur i s := by
  cases i with
  | reset => trivial
  | arm => exact ⟨(execArm_next h).1, (execArm_next h).2.1⟩
  | edge => trivial
  | shift e => exact (execShift_next h).1
  | inbegin => exact ⟨(execInbegin_next h).1, (execInbegin_next h).2.1⟩
  | inend => exact (execInend_next h).1
  | _ => exact stepReady_of_next h

theorem registersAfter_tr (i : Instr) (s : State) : (registersAfter i s).tr = s.tr := by cases i <;> rfl

/-- An operation without events leaves the trace: the `tr ++ []` of `effect` is the trace itself. -/
theorem effect_of_silent (h : eventsOf i s = []) : effect i s = registersAfter i s := by
  rw [effect, h, List.append_nil, ← registersAfter_tr i s]

theorem exec_of_canOccur (h : canOccur i s) : exec i s = .next (effect i s) := by
  cases i with
  | reset => rfl
  | arm => rw [effect_of_silent rfl]; exact if_pos (armAdmitted_iff.mpr h)
  | edge => rw [effect_of_silent rfl]; rfl
  | shift e => exact if_pos (transferPending_iff.mpr h)
  | inbegin => exact if_pos (inGranted_iff.mpr h)
  | inend => exact if_pos h
  | stepStart => exact stepService_of_stepReady h
  | stepStop =>
    refine (stepService_of_stepReady h).trans ?_
    simp [serviceFrame_eq, genStop_eq, goTo, emit, effect, registersAfter, eventsOf]
  | _ => rw [effect_of_silent rfl]; exact stepService_of_stepReady h

/-- What an operation answers as next state, and when. -/
theorem exec_next_iff : exec i s = .next t ↔ canOccur i s ∧ t = effect i s := by
  constructor
  · intro h
    have hc := canOccur_of_exec_next h
    rw [exec_of_canOccur hc] at h
    cases h
    exact ⟨hc, rfl⟩
  · rintro ⟨hc, rfl⟩
    exact exec_of_canOccur hc

/-- In a legal state an operation that does not occur is refused, never a fault (R10, R81). -/
theorem exec_of_not_canOccur {u : TState} (hts : s.ts = u.code) (h : ¬ canOccur i s) :
    exec i s = .refused (refusalOf i s) := by
  cases i with
  | reset => exact absurd trivial h
  | arm => exact if_neg (mt armAdmitted_iff.mp h)
  | edge => exact absurd trivial h
  | shift e => exact if_neg (mt transferPending_iff.mp h)
  | inbegin => exact if_neg (mt inGranted_iff.mp h)
  | inend => exact if_neg h
  | _ => exact stepService_of_not_stepReady hts h

/-- In a legal state a refusal is that of an operation that does not occur. -/
theorem exec_refused_iff {u : TState} {r : Refusal} (hts : s.ts = u.code) :
    exec i s = .refused r ↔ ¬ canOccur i s ∧ r = refusalOf i s := by
  by_cases hc : canOccur i s
  · simp [exec_of_canOccur hc, hc]
  · simp [exec_of_not_canOccur hts hc, hc, eq_comm]

end

end Sys2Proof.Machine
end

section
/-! PROOF. Frames: what an operation leaves unchanged, and what it appends to the trace. -/

namespace Sys2Proof.Machine

/-- Settles O32: an operation occurs with its `effect`, and each constructor's record update names the elements it writes. -/
theorem onlyOwnersWrite : Obligations.OnlyOwnersWrite := by
  intro i s t h hreset
  obtain ⟨-, rfl⟩ := exec_next_iff.mp h
  cases i with
  | reset => exact absurd rfl hreset
  | _ => simp [effect, registersAfter, eventsOf, isStep, isShift]

theorem exec_tr {i : Instr} {s t : State} (h : exec i s = .next t) : t.tr = s.tr ++ eventsOf i s := by
  obtain ⟨-, rfl⟩ := exec_next_iff.mp h
  rfl

theorem count_start_eventsOf (i : Instr) (s : State) :
    (eventsOf i s).count .start = if i = .stepStart then 1 else 0 := by
  cases i <;> simp [eventsOf]

theorem count_stop_eventsOf (i : Instr) (s : State) :
    (eventsOf i s).count .stop = if i = .stepStop then 1 else 0 := by
  cases i <;> simp [eventsOf]

theorem count_wake_eventsOf (i : Instr) (s : State) :
    (eventsOf i s).count .wake = if i = .stepStop then 1 else 0 := by
  cases i <;> simp [eventsOf]

theorem eventsOf_of_isShift {i : Instr} (s : State) (h : isShift i = true) :
    ∃ d level, eventsOf i s = [.bit d level] := by
  cases i with
  | shift e => exact ⟨_, _, rfl⟩
  | _ => cases h

/-- Settles O33: the trace grows by `eventsOf`, which is read off for each operation and counted. -/
theorem traceGrowsByTheOperationsEvents : Obligations.TraceGrowsByTheOperationsEvents := by
  intro i s t h
  rw [exec_tr h]
  refine ⟨?start, ?stop, ?shift, ?inbegin, ?inend, ?reset, ?silent, ?starts, ?stops, ?wakes⟩
  case start => rintro rfl; rfl
  case stop => rintro rfl; rfl
  case shift =>
    intro hs
    obtain ⟨d, level, he⟩ := eventsOf_of_isShift s hs
    exact ⟨d, level, by rw [he]⟩
  case inbegin => rintro rfl; rfl
  case inend => rintro rfl; rfl
  case reset => rintro rfl; rfl
  case silent => rintro (rfl | rfl | rfl | rfl | rfl | rfl | ⟨a, rfl⟩) <;> exact List.append_nil _
  case starts => rw [List.count_append, count_start_eventsOf]
  case stops => rw [List.count_append, count_stop_eventsOf]
  case wakes => rw [List.count_append, count_wake_eventsOf]

end Sys2Proof.Machine
end

section
/-! PROOF. Noninterference: the elements an operation does not read, as equations of `canOccur`, `effect` and `refusalOf`. -/

namespace Sys2Proof.Machine

/-! ### The shift register at rest -/

section
variable {i : Instr} {s : State}

/-- At rest the sampled bit selects nothing: both STEPs that look at it belong to AddrAckCheck. -/
theorem canOccur_with_sr (v : Byte) (hts : s.ts = TState.start.code) :
    canOccur i { s with sr := v } ↔ canOccur i s := by
  have elsewhere : ∀ {admits : Bool} {r : State}, r.ts = s.ts → ¬ stepReady .addrAckCheck admits r := by
    rintro admits r hr ⟨-, -, hc, -⟩
    exact absurd (TState.code_injective (hts.symm.trans (hr.symm.trans hc))) (by decide)
  cases i with
  | stepAacAck => exact iff_of_false (elsewhere rfl) (elsewhere rfl)
  | stepAacNack => exact iff_of_false (elsewhere rfl) (elsewhere rfl)
  | _ => exact Iff.rfl

theorem refusalOf_with_sr (i : Instr) (s : State) (v : Byte) : refusalOf i { s with sr := v } = refusalOf i s := by
  cases i <;> rfl

/-- An operation that occurs at rest carries `sr` along, or overwrites it with a value that does not depend on it. -/
theorem effect_with_sr (v : Byte) (hts : s.ts = TState.start.code) (hcnt : s.cnt = 0#4) (h : canOccur i s) :
    effect i { s with sr := v } =
      { effect i s with sr := if i = .stepStart ∨ i = .reset then (effect i s).sr else v } := by
  have elsewhere : ∀ {here : TState} {admits : Bool}, here ≠ .start → ¬ stepReady here admits s := by
    rintro here admits hne ⟨-, -, hc, -⟩
    exact hne (TState.code_injective (hc.symm.trans hts))
  cases i with
  | reset => rfl
  | arm => rfl
  | edge => rfl
  | shift e => exact absurd hcnt h
  | stepStart => rfl
  | inbegin => rfl
  | inend => rfl
  | _ => exact absurd h (elsewhere (by decide))

end

/-- Settles O37: at rest neither the enabling, nor the reason of a refusal, nor what else an operation writes depends on `sr`. -/
theorem shiftRegisterUnreadBeforeStart : Obligations.ShiftRegisterUnreadBeforeStart := by
  intro i s v hts hcnt
  refine ⟨fun t h => ?next, fun r h => ?refused⟩
  case next =>
    obtain ⟨hc, rfl⟩ := exec_next_iff.mp h
    exact exec_next_iff.mpr ⟨(canOccur_with_sr v hts).mpr hc, (effect_with_sr v hts hcnt hc).symm⟩
  case refused =>
    obtain ⟨hc, rfl⟩ := (exec_refused_iff (u := .start) hts).mp h
    exact (exec_refused_iff (s := { s with sr := v }) (u := .start) hts).mpr
      ⟨mt (canOccur_with_sr v hts).mp hc, (refusalOf_with_sr i s v).symm⟩

/-! ### The Data Register -/

section
variable (i : Instr) (s : State)

theorem canOccur_with_data (v : Nibble) : canOccur i { s with data := v } ↔ canOccur i s := by cases i <;> exact Iff.rfl

variable {i}

theorem effect_with_data (v : Nibble) (h : i ≠ .stepAacAck) :
    effect i { s with data := v } =
      { effect i s with data := if i = .inbegin then v + 1#4 else if i = .reset then (effect i s).data else v } := by
  cases i with
  | stepAacAck => exact absurd rfl h
  | _ => rfl

end

/-- Settles O38: no enabling reads `data`, and of the effects only STEP.AAC.ACK's and the increment's do. -/
theorem dataReadOnlyWhenDataPhaseStarts : Obligations.DataReadOnlyWhenDataPhaseStarts := by
  intro i s t v hi h
  obtain ⟨hc, rfl⟩ := exec_next_iff.mp h
  exact exec_next_iff.mpr ⟨(canOccur_with_data i s v).mpr hc, (effect_with_data s v hi).symm⟩

/-! ### The trace and the indicator -/

section
variable (i : Instr) (s : State) (tr : List TraceEvent) (level : Bool)

theorem canOccur_with_trace : canOccur i { s with tr := tr, ind := level } ↔ canOccur i s := by
  cases i <;> exact Iff.rfl

theorem effect_with_trace :
    effect i { s with tr := tr, ind := level } =
      { effect i s with
        tr := tr ++ eventsOf i s, ind := if i = .inbegin ∨ i = .inend ∨ i = .reset then (effect i s).ind else level } := by
  cases i <;> rfl

end

/-- Settles O39: no enabling and no effect reads the trace or the indicator; the events appended are `eventsOf` in both. -/
theorem traceAndIndicatorAreNeverRead : Obligations.TraceAndIndicatorAreNeverRead := by
  intro i s t tr level h
  refine ⟨eventsOf i s, exec_tr h, ?_⟩
  obtain ⟨hc, rfl⟩ := exec_next_iff.mp h
  exact exec_next_iff.mpr ⟨(canOccur_with_trace i s tr level).mpr hc, (effect_with_trace i s tr level).symm⟩

end Sys2Proof.Machine
end

section
/-! PROOF. The invariants of R37: reset establishes them and every operation keeps them, one lemma per operation, the seven STEPs
through one lemma about the load they leave. -/

namespace Sys2Proof.Machine

/-! ### Reset -/

/-- The reset values meet the invariants, whatever `sr` is drawn and whatever was recorded (R38). -/
theorem resetElements_invariants (sr : Byte) (s : State) : Invariants (resetElements Config.dataReset sr s) where
  legalState := ⟨.start, rfl⟩
  dataBound := Nat.zero_le 15
  cntBound := Nat.zero_le 8
  passThroughOff := rfl
  requestOnlyWhenDone := fun _ => rfl
  busyIffSeOff := iff_of_false nofun nofun
  busyIffInOff := iff_of_false nofun nofun
  idleReleased := fun _ _ => ⟨rfl, rfl⟩
  stopDrivesLow := fun h => absurd h (show TState.start.code ≠ TState.stop.code by decide)
  checkReleased := fun _ => rfl
  waitDriven := by simp [resetElements, TState.code]
  indicatorIffBusy := iff_of_false nofun nofun
  live := fun h => absurd rfl h

/-- Settles O34: the state after reset is its own reset values, and each element quiescence names is among them. -/
theorem resetMeetsInvariants : Obligations.ResetMeetsInvariants :=
  ⟨resetElements_invariants 0#8 State.reset, rfl, rfl, rfl, rfl, rfl⟩

/-! ### One operation -/

/-- What a STEP leaves in the serial engine when it goes to a state (R91 to R97): a byte to drive, a bit to receive, the
stop-preparation bit, or nothing with the bus released. -/
def stepLoad : TState → Byte → Nibble → Bool → Prop
  | .start, _, cnt, oe => cnt = 0#4 ∧ oe = false
  | .addrAckWait, _, cnt, oe => cnt = 8#4 ∧ oe = true
  | .addrAckCheck, _, cnt, oe => cnt = 1#4 ∧ oe = false
  | .dataAckWait, _, cnt, oe => cnt = 8#4 ∧ oe = true
  | .dataAckCheck, _, cnt, oe => cnt = 1#4 ∧ oe = false
  | .stop, sr, cnt, oe => cnt = 1#4 ∧ oe = true ∧ sr = 0x00#8

namespace Invariants

variable {s : State}

/-- A STEP's next state keeps the invariants: its load is the one its new state asks for, and the input path is untouched. -/
theorem after_step (h : Invariants s) (u : TState) {sr : Byte} {cnt : Nibble} {oe ge : Bool} {tr : List TraceEvent}
    (hge : ge = false) (hload : stepLoad u sr cnt oe) :
    Invariants { s with ts := u.code, sr := sr, cnt := cnt, oe := oe, ge := ge, seIfg := false, tr := tr } :=
  { h with
    legalState := ⟨u, rfl⟩
    passThroughOff := hge
    cntBound := by cases u <;> simp_all [stepLoad]
    requestOnlyWhenDone := nofun
    idleReleased := by cases u <;> simp_all [stepLoad, TState.code]
    stopDrivesLow := by cases u <;> simp_all [stepLoad, TState.code]
    checkReleased := by cases u <;> simp_all [stepLoad, TState.code]
    waitDriven := by cases u <;> simp_all [stepLoad, TState.code]
    live := by cases u <;> simp_all [stepLoad, TState.code] }

/-- ARM at rest: the request it raises finds no transfer pending. -/
theorem after_arm (h : Invariants s) (hc : canOccur .arm s) : Invariants (effect .arm s) := by
  obtain ⟨hts, hcnt⟩ := hc
  exact { h with
    requestOnlyWhenDone := fun _ => hcnt
    idleReleased := nofun
    live := fun hne => absurd hts hne }

/-- SHIFT: a pending transfer has no request yet, so the request after it says that it is done; and in Stop it shifts a driven 0 into 0. -/
theorem after_shift (h : Invariants s) {e : Bool} (hc : canOccur (.shift e) s) : Invariants (effect (.shift e) s) := by
  have hflag : s.seIfg = false := Bool.eq_false_iff.mpr fun hi => hc (h.requestOnlyWhenDone hi)
  exact { h with
    cntBound := by
      have := h.cntBound
      have hcnt : s.cnt ≠ 0#4 := hc
      change (s.cnt - 1#4).toNat ≤ 8
      bv_omega
    requestOnlyWhenDone := by simp [effect, registersAfter, flagAfterShift, hflag]
    idleReleased := fun hts _ => absurd (h.idleReleased hts hflag).1 hc
    stopDrivesLow := fun hts => by
      obtain ⟨hoe, hsr⟩ := h.stopDrivesLow hts
      refine ⟨hoe, ?_⟩
      change shiftIn s.sr (sampledLevel (presented s) e) = 0x00#8
      rw [presented_of_oe hoe, hsr, sampledLevel_driven]
      cases e <;> rfl
    live := fun _ => by simp [effect, registersAfter, flagAfterShift, hflag, em'] }

/-- INBEGIN: both enables off and the indicator low, inside the hold. -/
theorem after_inbegin (h : Invariants s) : Invariants (effect .inbegin s) :=
  { h with
    dataBound := Nat.le_of_lt_succ (s.data + 1#4).isLt
    busyIffSeOff := iff_of_true rfl rfl
    busyIffInOff := iff_of_true rfl rfl
    indicatorIffBusy := iff_of_true rfl rfl }

/-- INEND: both enables on and the indicator high, outside the hold. -/
theorem after_inend (h : Invariants s) : Invariants (effect .inend s) :=
  { h with
    busyIffSeOff := iff_of_false nofun nofun
    busyIffInOff := iff_of_false nofun nofun
    indicatorIffBusy := iff_of_false nofun nofun }

theorem after_exec {i : Instr} {t : State} (h : Invariants s) (hx : exec i s = .next t) : Invariants t := by
  obtain ⟨hc, rfl⟩ := exec_next_iff.mp hx
  have hge := h.passThroughOff
  cases i with
  | reset => exact resetElements_invariants (Config.srReset s.draws) { s with tr := s.tr ++ [.rst], draws := s.draws + 1 }
  | arm => exact h.after_arm hc
  | edge => exact { h with }
  | shift e => exact h.after_shift hc
  | stepStart => exact h.after_step .addrAckWait rfl ⟨rfl, rfl⟩
  | stepAaw => exact h.after_step .addrAckCheck hge ⟨rfl, rfl⟩
  | stepAacAck => exact h.after_step .dataAckWait hge ⟨rfl, rfl⟩
  | stepAacNack => exact h.after_step .stop hge ⟨rfl, rfl, rfl⟩
  | stepDaw => exact h.after_step .dataAckCheck hge ⟨rfl, rfl⟩
  | stepDac a => exact h.after_step .stop hge ⟨rfl, rfl, rfl⟩
  | stepStop => exact h.after_step .start rfl ⟨h.requestOnlyWhenDone hc.1, rfl⟩
  | inbegin => exact h.after_inbegin
  | inend => exact h.after_inend

/-- No invariant speaks of the offers. -/
theorem with_offers (h : Invariants s) (offers : List Offer) : Invariants { s with offers := offers } := { h with }

end Invariants

/-- Settles O35: a step runs one operation in the state without its offer, or changes nothing. -/
theorem stepKeepsInvariants : Obligations.StepKeepsInvariants := by
  intro s t h hstep
  obtain ⟨-, rfl⟩ | ⟨o, rest, i, -, hx⟩ := step_next hstep
  · exact h
  · exact (h.with_offers rest).after_exec hx

end Sys2Proof.Machine
end

section
/-! PROOF. The events to come: an operation leaves them, a step takes the first. -/

namespace Sys2Proof.Machine

theorem exec_offers {i : Instr} {s t : State} (h : exec i s = .next t) : t.offers = s.offers := by
  obtain ⟨-, rfl⟩ := exec_next_iff.mp h
  cases i <;> rfl

/-- Settles O7: a step runs one operation in the state without its offer, or had no offer to take. -/
theorem stepConsumesOneOffer : Obligations.StepConsumesOneOffer := by
  intro s t hstep
  obtain ⟨hnil, rfl⟩ | ⟨o, rest, i, hcons, hx⟩ := step_next hstep
  · rw [hnil, List.tail_nil]
  · rw [exec_offers hx, hcons, List.tail_cons]

end Sys2Proof.Machine
end

section
/-! PROOF. A driven transfer: the effect of one SHIFT with the output enabled, and of the SHIFTs of a whole transfer (R54, R105, R106). -/

namespace Sys2Proof.Machine

/-! ### One driven bit -/

/-- A SHIFT with the output enabled presents `sr[7]` and samples its wired-AND with the environment (R53, R105). -/
theorem effect_shift_driven {s : State} (e : Bool) (hoe : s.oe = true) :
    effect (.shift e) s = { s with
      sr := shiftIn s.sr (s.sr.getLsbD 7 && e), cnt := s.cnt - 1#4, seIfg := flagAfterShift (s.cnt - 1#4) s.seIfg,
      tr := s.tr ++ [.bit (.driven (s.sr.getLsbD 7)) (s.sr.getLsbD 7 && e)] } := by
  simp only [effect, registersAfter, eventsOf, presented_of_oe hoe, sampledLevel_driven]

/-- Settles O23: the environment's bit enters the effect of a driven SHIFT only through the sampled level, which a driven 0 fixes. -/
theorem drivenBitContentionIsUnnoticed : Obligations.DrivenBitContentionIsUnnoticed := by
  intro s hoe hcnt
  refine ⟨effect (.shift true) s, effect (.shift false) s, exec_of_canOccur hcnt, exec_of_canOccur hcnt, ?differ, ?zero⟩
  case differ => rw [effect_shift_driven true hoe, effect_shift_driven false hoe]
  case zero =>
    intro hbit
    simp only [effect_shift_driven _ hoe, hbit, Bool.false_and, and_self]

/-! ### A driven transfer -/

/-- The shift register after driven SHIFTs against the environment's bits `es`. -/
def srAfterDriven (sr : Byte) (es : List Bool) : Byte := es.foldl (fun r e => shiftIn r (r.getLsbD 7 && e)) sr

/-- Eight SHIFTs against nobody bring every bit of the byte back to its place (R105). -/
theorem srAfterDriven_unopposed (sr : Byte) : srAfterDriven sr (List.replicate 8 true) = sr := by
  revert sr
  decide

/-- The first event of a driven transfer presents bit 7; the rest are those of the shifted register, whose upper bits the sampled level has
not yet reached. -/
theorem drivenBits_cons (sr : Byte) (e : Bool) {es : List Bool} (level : Bool) (hlen : es.length ≤ 7) :
    drivenBits sr (e :: es) =
      .bit (.driven (sr.getLsbD 7)) (sr.getLsbD 7 && e) :: drivenBits (shiftIn sr level) es := by
  have later : ∀ p ∈ es.zipIdx, (shiftIn sr level).getLsbD (7 - p.2) = sr.getLsbD (7 - (p.2 + 1)) := by
    intro p hp
    have hlt : p.2 < es.length := (List.mem_zipIdx hp).2.1.trans_eq (Nat.zero_add _)
    rw [show 7 - p.2 = 7 - (p.2 + 1) + 1 by omega]
    exact shiftIn_getLsbD_succ sr level (by omega)
  simp only [drivenBits, List.zipIdx_cons, List.zipIdx_succ, List.map_cons, List.map_map, Nat.sub_zero, List.cons.injEq,
    true_and]
  exact List.map_congr_left fun p hp => by simp [later p hp]

/-- A script whose first operation answers a next state goes on from there. -/
theorem runInstrs_cons_of_next {i : Instr} {rest : List Instr} {s t : State} (h : exec i s = .next t) :
    runInstrs (i :: rest) s = runInstrs rest t := by simp [runInstrs, h]

/-- The SHIFTs of a driven transfer, as many as it has bits and at most a byte: bit 7 first, and the last one raises the request. -/
theorem runInstrs_shifts_driven (es : List Bool) (s : State) (hoe : s.oe = true) (hlen : es.length ≤ 8)
    (hcnt : s.cnt = BitVec.ofNat 4 es.length) :
    runInstrs (shifts es) s = .next { s with
      sr := srAfterDriven s.sr es, cnt := 0#4, seIfg := s.seIfg || !es.isEmpty, tr := s.tr ++ drivenBits s.sr es } := by
  induction es generalizing s with
  | nil =>
    rw [List.length_nil] at hcnt
    simp [shifts, runInstrs, srAfterDriven, drivenBits, ← hcnt]
  | cons e es ih =>
    rw [List.length_cons] at hlen hcnt
    have hpending : s.cnt ≠ 0#4 := by rw [hcnt]; bv_omega
    have hleft : s.cnt - 1#4 = BitVec.ofNat 4 es.length := by rw [hcnt]; bv_omega
    have hflag : (flagAfterShift (s.cnt - 1#4) s.seIfg || !es.isEmpty) = true := by
      cases es with
      | nil => simp [flagAfterShift, hleft]
      | cons e' es => simp
    have hfirst : exec (.shift e) s = .next (effect (.shift e) s) := exec_of_canOccur hpending
    rw [effect_shift_driven e hoe] at hfirst
    rw [shifts, List.map_cons, runInstrs_cons_of_next hfirst, ← shifts, ih _ ?driven (by omega) hleft]
    case driven => exact hoe
    rw [drivenBits_cons s.sr e (s.sr.getLsbD 7 && e) (by omega)]
    simp only [hflag, srAfterDriven, List.foldl_cons, List.isEmpty_cons, Bool.not_false, Bool.or_true, List.append_assoc,
      List.singleton_append]

/-- Settles O22: the eight SHIFTs are a driven transfer, and unopposed they rotate the byte back. -/
theorem byteGoesOutMostSignificantFirst : Obligations.ByteGoesOutMostSignificantFirst := by
  intro s es hlen hoe hcnt
  have hne : es.isEmpty = false := List.isEmpty_eq_false_iff.mpr (List.ne_nil_of_length_eq_add_one hlen)
  have hrun := runInstrs_shifts_driven es s hoe hlen.le (by rw [hcnt, hlen])
  rw [hne, Bool.not_false, Bool.or_true] at hrun
  exact ⟨_, hrun, rfl, rfl, rfl, fun hall => hall ▸ srAfterDriven_unopposed s.sr, rfl⟩

end Sys2Proof.Machine
end

section
/-! PROOF. The decoder against the encoder and the opcode map (30_encoding.md), through the four fields of a word. -/

namespace Sys2Proof.Machine

variable {dw : Byte} {i : Instr}

/-! ### A word and its fields -/

/-- A word is its four fields (R70). -/
theorem word_eq_fields (dw : Byte) :
    dw = evField dw ++ BitVec.ofBool (bit4Field dw) ++ BitVec.ofBool (bit3Field dw) ++ tsField dw := by
  revert dw
  decide

/-- What an `EV` word keeps of a word. -/
theorem and_evBits (dw : Byte) : dw &&& 0xE0#8 = evWord (evField dw) := by
  revert dw
  decide

/-- What an `SH` word keeps of a word. -/
theorem and_shBits (dw : Byte) : dw &&& 0xF0#8 = evField dw ++ BitVec.ofBool (bit4Field dw) ++ 0#4 := by
  revert dw
  decide

theorem toNat_eq_fields (dw : Byte) :
    dw.toNat =
      32 * (evField dw).toNat + 16 * (bit4Field dw).toNat + 8 * (bit3Field dw).toNat + (tsField dw).toNat := by
  revert dw
  decide

/-- The row of STEP.DAC asks for every bit but the sampled one, which is the operand. -/
theorem eq_encode_stepDac (h : dw &&& 0xEF#8 = 0x84#8) : dw = encode (.stepDac (bit4Field dw)) := by
  revert dw
  decide

theorem eq_stWord (hev : evField dw = 4#3) (hb : bit3Field dw = false) : dw = stWord (bit4Field dw) (tsField dw) := by
  have h := word_eq_fields dw
  rwa [hev, hb] at h

/-! ### The decoder, case by case -/

theorem ownRow (i : Instr) : Laws.OwnRow.Statement i := by
  cases i with
  | reset => exact Laws.OwnRow.reset
  | arm => exact Laws.OwnRow.arm
  | edge => exact Laws.OwnRow.edge
  | shift e => exact Laws.OwnRow.shift e
  | stepStart => exact Laws.OwnRow.stepStart
  | stepAaw => exact Laws.OwnRow.stepAaw
  | stepAacAck => exact Laws.OwnRow.stepAacAck
  | stepAacNack => exact Laws.OwnRow.stepAacNack
  | stepDaw => exact Laws.OwnRow.stepDaw
  | stepDac a => exact Laws.OwnRow.stepDac a
  | stepStop => exact Laws.OwnRow.stepStop
  | inbegin => exact Laws.OwnRow.inbegin
  | inend => exact Laws.OwnRow.inend

theorem row_hits_encode (i : Instr) : i.row.hits (encode i) = true :=
  have ⟨_, hhits, _⟩ := ownRow i
  hhits

theorem canonicalWord_encode (i : Instr) : canonicalWord (encode i) = true :=
  have ⟨_, _, hcanonical⟩ := ownRow i
  hcanonical

theorem decode_encode (i : Instr) : decode (encode i) = .ok i := by
  cases i with
  | shift e => simp [encode, decode]
  | stepDac a => simp [encode, decode_stWord, decodeStep]
  | _ => rfl

/-- The bits of a word that the format of an operation looks at: all but those it ignores (R70). -/
def formatBits (i : Instr) : Byte := if isStep i then 0xFF#8 else if isShift i then 0xF0#8 else 0xE0#8

theorem and_formatBits_of_isStep (h : isStep i = true) : dw &&& formatBits i = dw := by
  rw [formatBits, if_pos h]
  exact BitVec.and_allOnes

/-- An `ST` word decodes to the operation whose word it is (R73). -/
theorem decodeStep_ok {a : Bool} {ts : Code} (h : decodeStep a ts = .ok i) :
    isStep i = true ∧ encode i = stWord a ts := by
  revert h
  match ts with
  | 0#3 | 1#3 | 2#3 | 3#3 | 5#3 | 6#3 | 7#3 => cases a <;> rintro ⟨⟩ <;> exact ⟨rfl, rfl⟩
  | 4#3 => rintro ⟨⟩; exact ⟨rfl, rfl⟩

/-- A word that decodes to an operation is that operation's word in the bits its format looks at. -/
theorem decode_ok (h : decode dw = .ok i) : dw &&& formatBits i = encode i := by
  match hev : evField dw with
  | 0#3 | 1#3 | 2#3 | 5#3 | 6#3 =>
    simp only [decode, hev] at h
    cases h
    exact (and_evBits dw).trans (hev ▸ rfl)
  | 3#3 =>
    simp only [decode, hev] at h
    cases h
    exact (and_shBits dw).trans (hev ▸ rfl)
  | 4#3 =>
    cases hb : bit3Field dw with
    | true => simp [decode, hev, hb] at h
    | false =>
      have hst := eq_stWord hev hb
      rw [hst, decode_stWord] at h
      obtain ⟨hstep, henc⟩ := decodeStep_ok h
      rw [and_formatBits_of_isStep hstep, henc, ← hst]
  | 7#3 => simp [decode, hev] at h

/-- Settles O1, by evaluating the decoder on the sixteen words. -/
theorem tableWordsDecode : Obligations.TableWordsDecode := by
  unfold Obligations.TableWordsDecode
  decide

/-- Settles O2: the word of an operation has the operation's fields, and a word that decodes is that word in the bits its format looks
at; `formatBits` written out is the clearing of the others. -/
theorem encodeDecodeRoundTrip : Obligations.EncodeDecodeRoundTrip := by
  refine ⟨fun i _ => ⟨decode_encode i, canonicalWord_encode i⟩, fun dw i h => ?_⟩
  rw [← decode_ok h, formatBits]
  split
  · exact BitVec.and_allOnes
  · split <;> rfl

/-! ### The opcode map -/

theorem row_hits_iff {r : Row} : r.hits dw = true ↔ dw &&& r.mask = r.bits := decide_eq_true_iff

/-- A row's mask asks for no bit that the format ignores. -/
theorem formatBits_and_mask (i : Instr) : formatBits i &&& i.row.mask = i.row.mask := by
  cases i <;> simp [formatBits, isStep, isShift, Instr.row]

/-- A word matches the row of the operation it decodes to. -/
theorem hits_of_decode (h : decode dw = .ok i) : i.row.hits dw = true := by
  have hown := row_hits_iff.mp (row_hits_encode i)
  rw [row_hits_iff, ← hown, ← decode_ok h, BitVec.and_assoc, formatBits_and_mask]

theorem evField_of_hits {r : Row} (hm : r.mask = 0xE0#8) (h : r.hits dw = true) : evField dw = evField r.bits := by
  have hw := row_hits_iff.mp h
  rw [hm, and_evBits] at hw
  rw [← hw, evField_evWord]

/-- A word that matches the row of an operation decodes to an operation of that row: the same one, but for the operand. -/
theorem decode_of_hits (h : i.row.hits dw = true) : ∃ j, decode dw = .ok j ∧ j.row = i.row := by
  have hw := row_hits_iff.mp h
  cases i with
  | reset | arm | edge | inbegin | inend => exact ⟨_, by simp only [decode, evField_of_hits rfl h]; rfl, rfl⟩
  | shift e =>
    have hev : evField dw = 3#3 := evField_of_hits (r := (Instr.shift false).row) rfl h
    exact ⟨.shift (bit4Field dw), by simp only [decode, hev]; rfl, rfl⟩
  | stepDac a => exact ⟨.stepDac (bit4Field dw), (congrArg decode (eq_encode_stepDac hw)).trans (decode_encode _), rfl⟩
  | _ => exact ⟨_, congrArg decode (BitVec.and_allOnes.symm.trans hw), rfl⟩

/-- Settles O3: a matched row has an operation the word decodes to, and the decoder answers only one; so no word matches two rows. -/
theorem decodeAgreesWithOpcodeMap : Obligations.DecodeAgreesWithOpcodeMap := by
  have rowOf : ∀ r ∈ opcodeRows, ∃ j : Instr, j.row = r := fun r hr =>
    (List.mem_map.mp hr).imp fun _ h => h.2
  refine ⟨fun dw i hi r hr => ⟨fun hhits => ?only, fun he => ?own⟩, fun dw r hr hhits => ?decodes⟩
  case only =>
    obtain ⟨k, rfl⟩ := rowOf r hr
    obtain ⟨j, hj, hrow⟩ := decode_of_hits hhits
    cases hi.symm.trans hj
    exact hrow.symm
  case own => exact he ▸ hits_of_decode hi
  case decodes =>
    obtain ⟨k, rfl⟩ := rowOf r hr
    exact decode_of_hits hhits

/-! ### Rejected words -/

/-- The state code and the sampled bit of no STEP: code 6 or 7, or the sampled bit set in a state that does not sample (R81). -/
theorem decodeStep_rejects_iff {a : Bool} {ts : Code} :
    (∃ why, decodeStep a ts = .error why) ↔ ts = 6#3 ∨ ts = 7#3 ∨ a = true ∧ ts ≠ 2#3 ∧ ts ≠ 4#3 := by
  match ts with
  | 0#3 | 1#3 | 2#3 | 3#3 | 4#3 | 5#3 | 6#3 | 7#3 => cases a <;> simp [decodeStep]

/-- The decoder rejects the class `ev = 7` and, among the `ST` words, those with bit 3 set and those of no STEP (R81). -/
theorem decode_rejects_iff :
    (∃ why, decode dw = .error why) ↔
      evField dw = 7#3 ∨
      evField dw = 4#3 ∧ (bit3Field dw = true ∨ ∃ why, decodeStep (bit4Field dw) (tsField dw) = .error why) := by
  match hev : evField dw with
  | 0#3 | 1#3 | 2#3 | 3#3 | 5#3 | 6#3 | 7#3 => simp [decode, hev]
  | 4#3 => cases hb : bit3Field dw <;> simp [decode, hev, hb]

/-- Settles O4: the rejected words by their fields, and a word's number from its fields. -/
theorem rejectedWordsAreTheListedOnes : Obligations.RejectedWordsAreTheListedOnes := by
  intro dw
  have hfields := toNat_eq_fields dw
  have hts := (tsField dw).isLt
  have h4 := Bool.toNat_le (bit4Field dw)
  have h3 := Bool.toNat_le (bit3Field dw)
  rw [decode_rejects_iff, decodeStep_rejects_iff]
  simp only [List.mem_cons, List.not_mem_nil, or_false, ← BitVec.toNat_inj, ← Bool.toNat_eq_one, ne_eq, BitVec.reduceToNat]
  omega

end Sys2Proof.Machine
end

section
/-! PROOF. From an offer to its operation (R76): the word an event puts before the decoder, what offering it runs, and that a placed word runs. -/

namespace Sys2Proof.Machine

variable {s : State} {o : Offer} {i : Instr}

/-! ### Running a word -/

theorem runWord_of_decode_ok {dw : Byte} (h : decode dw = .ok i) : runWord dw s = exec i s := by
  simp [runWord, h]

theorem offerOne_of_decode_ok {dw : Byte} (hd : dispatch o s = .next dw) (hi : decode dw = .ok i) :
    offerOne o s = exec i s := (offerOne_of_dispatch_next hd).trans (runWord_of_decode_ok hi)

theorem offerOne_of_dispatch_encode (h : dispatch o s = .next (encode i)) : offerOne o s = exec i s :=
  offerOne_of_decode_ok h (decode_encode i)

/-- Settles O5: the step is the offer in the state without it, and the offer runs what its word decodes to. -/
theorem stepRunsDecodedInstruction : Obligations.StepRunsDecodedInstruction := by
  intro s o rest dw i ho hd hi
  rw [step_of_offers_cons ho, offerOne_of_decode_ok hd hi]

/-! ### The word of an event -/

/-- The STEP of a state and its sampled bit (R76, R90). -/
def stepOf : TState → Bool → Instr
  | .start, _ => .stepStart
  | .addrAckWait, _ => .stepAaw
  | .addrAckCheck, false => .stepAacAck
  | .addrAckCheck, true => .stepAacNack
  | .dataAckWait, _ => .stepDaw
  | .dataAckCheck, a => .stepDac a
  | .stop, _ => .stepStop

theorem selectedStep_of_code {u : TState} (hts : s.ts = u.code) : selectedStep s = some (stepOf u (receivedBit s)) := by
  rw [selectedStep, hts, TState.ofCode_code]
  cases u with
  | addrAckCheck => cases receivedBit s <;> rfl
  | _ => rfl

theorem exists_code_of_selectedStep (h : selectedStep s = some i) :
    ∃ u : TState, s.ts = u.code ∧ i = stepOf u (receivedBit s) := by
  cases hu : TState.ofCode s.ts with
  | none => simp [selectedStep, hu] at h
  | some u =>
    have hts := TState.code_of_ofCode hu
    exact ⟨u, hts, Option.some.inj (h.symm.trans (selectedStep_of_code hts))⟩

/-- In a state that does not sample the word has `a = 0` (R73). -/
theorem encode_stepOf (u : TState) (b : Bool) : encode (stepOf u b) = stWord (u.samples && b) u.code := by
  cases u <;> cases b <;> rfl

theorem encode_stepDac (a : Bool) : encode (.stepDac a) = if a then 0x94#8 else 0x84#8 := by cases a <;> rfl

theorem dispatch_step_of_ready {u : TState} (hi : s.seIfg = true) (he : s.seIe = true) (hts : s.ts = u.code) :
    dispatch (.event .step) s = .next (encode (stepOf u (receivedBit s))) := by
  rw [dispatch_event_step hi he hts, encode_stepOf]

theorem offerOne_step_of_ready {u : TState} (hi : s.seIfg = true) (he : s.seIe = true) (hts : s.ts = u.code) :
    offerOne (.event .step) s = exec (stepOf u (receivedBit s)) s :=
  offerOne_of_dispatch_encode (dispatch_step_of_ready hi he hts)

theorem dispatch_eventOf (s : State) (h : isStep i = false) : dispatch (.event (eventOf i)) s = .next (encode i) := by
  cases i with
  | reset | arm | edge | shift e | inbegin | inend => rfl
  | _ => cases h

theorem offerOne_eventOf (s : State) (h : isStep i = false) : offerOne (.event (eventOf i)) s = exec i s :=
  offerOne_of_dispatch_encode (dispatch_eventOf s h)

/-- Settles O8: each event's word is its operation's, by class or by the state that selects the STEP, and offering it runs what it decodes
to. -/
theorem eventsDispatchToTheirOperations : Obligations.EventsDispatchToTheirOperations := by
  refine ⟨fun s => ?plain, fun s hi he => ?steps, fun i s h => dispatch_eventOf s h⟩
  case plain =>
    exact ⟨offerOne_eventOf (i := .reset) s rfl, offerOne_eventOf (i := .arm) s rfl,
      offerOne_eventOf (i := .edge) s rfl, fun e => offerOne_eventOf (i := .shift e) s rfl,
      offerOne_eventOf (i := .inbegin) s rfl, offerOne_eventOf (i := .inend) s rfl⟩
  case steps =>
    have check {b : Bool} (hts : s.ts = 2#3) (hb : receivedBit s = b) :
        offerOne (.event .step) s = exec (stepOf .addrAckCheck b) s :=
      hb ▸ offerOne_step_of_ready hi he hts
    refine ⟨offerOne_step_of_ready (u := .start) hi he, offerOne_step_of_ready (u := .addrAckWait) hi he, check, check,
      offerOne_step_of_ready (u := .dataAckWait) hi he,
      fun hts => ⟨dispatch_step_of_ready (u := .dataAckCheck) hi he hts,
        offerOne_step_of_ready (u := .dataAckCheck) hi he hts⟩,
      offerOne_step_of_ready (u := .stop) hi he, fun i hsel => ?_⟩
    obtain ⟨u, hts, rfl⟩ := exists_code_of_selectedStep hsel
    exact dispatch_step_of_ready hi he hts

/-! ### No invalid word and no fault in a legal state -/

theorem dispatch_event_next {ev : Event} {dw : Byte} (h : dispatch (.event ev) s = .next dw) : dw = dispatchWord ev s :=
  (dispatchEvent_next h).1

/-- In a legal state the word of R76 is an operation's (R81). -/
theorem dispatchWord_eq_encode {u : TState} (hts : s.ts = u.code) (ev : Event) : ∃ i, dispatchWord ev s = encode i := by
  cases ev with
  | reset => exact ⟨.reset, rfl⟩
  | arm => exact ⟨.arm, rfl⟩
  | edge => exact ⟨.edge, rfl⟩
  | shift e => exact ⟨.shift e, rfl⟩
  | step => exact ⟨stepOf u (receivedBit s), by rw [encode_stepOf, dispatchWord, ackSample, hts, TState.ofCode_code]⟩
  | inbegin => exact ⟨.inbegin, rfl⟩
  | inend => exact ⟨.inend, rfl⟩

theorem exec_ne_fault {u : TState} (hts : s.ts = u.code) (i : Instr) (f : Fault) : exec i s ≠ .fault f := by
  by_cases hc : canOccur i s
  · rw [exec_of_canOccur hc]
    nofun
  · rw [exec_of_not_canOccur hts hc]
    nofun

theorem runWord_ne_fault {u : TState} (hts : s.ts = u.code) (dw : Byte) (f : Fault) : runWord dw s ≠ .fault f := by
  cases hw : decode dw with
  | ok i => rw [runWord_of_decode_ok hw]; exact exec_ne_fault hts i f
  | error why => rw [runWord_of_decode_error hw]; nofun

theorem TState.code_legal (u : TState) : ¬ (u.code = 6#3 ∨ u.code = 7#3) := by
  rw [← TState.ofCode_eq_none, TState.ofCode_code]
  nofun

theorem offerOne_ne_fault {u : TState} (hts : s.ts = u.code) (o : Offer) (f : Fault) : offerOne o s ≠ .fault f := by
  cases hd : dispatch o s with
  | next dw => rw [offerOne_of_dispatch_next hd]; exact runWord_ne_fault hts dw f
  | fault g => exact absurd (hts ▸ dispatch_fault hd) u.code_legal
  | refused r => rw [offerOne_of_dispatch_refused hd]; nofun

/-- Settles O9: an invariant state is at the code of a state (I1), and only codes 6 and 7 give an invalid word or a fault. -/
theorem invariantsExcludeInvalidWordsAndFaults : Obligations.InvariantsExcludeInvalidWordsAndFaults := by
  intro s hinv
  obtain ⟨u, hts⟩ := hinv.legalState
  refine ⟨fun ev dw hd => ?word, exec_ne_fault hts, fun f => ?step⟩
  case word =>
    obtain ⟨i, hi⟩ := dispatchWord_eq_encode hts ev
    rw [dispatch_event_next hd, hi]
    exact ⟨i, decode_encode i⟩
  case step =>
    cases ho : s.offers with
    | nil => rw [step_of_offers_nil ho]; nofun
    | cons o rest => rw [step_of_offers_cons ho]; exact offerOne_ne_fault (s := { s with offers := rest }) hts o f

/-! ### A placed word -/

theorem tableWord_toNat (dw : Byte) : tableWord 8 dw.toNat = dw := by
  rw [tableWord, Nat.mod_eq_of_lt dw.isLt, BitVec.ofNat_toNat, BitVec.setWidth_eq]

theorem selectInstr_offers (i : Instr) (s : State) : (selectInstr i s).offers = s.offers := by cases i <;> rfl

theorem withReceivedBit_getLsbD_zero (sr : Byte) (a : Bool) : (withReceivedBit sr a).getLsbD 0 = a := by
  rw [withReceivedBit, BitVec.getLsbD_append]
  simp

/-- The state made for an operation enables it, whatever it was made from. -/
theorem canOccur_selectInstr (i : Instr) (s : State) : canOccur i (selectInstr i s) := by
  cases i with
  | reset | edge => trivial
  | arm => exact ⟨rfl, rfl⟩
  | shift e =>
    change (if s.cnt = 0#4 then 1#4 else s.cnt) ≠ 0#4
    split
    · decide
    · assumption
  | stepAacAck => exact ⟨rfl, rfl, rfl, congrArg not (withReceivedBit_getLsbD_zero s.sr false)⟩
  | stepAacNack => exact ⟨rfl, rfl, rfl, withReceivedBit_getLsbD_zero s.sr true⟩
  | inbegin => exact ⟨rfl, rfl⟩
  | inend => rfl
  | _ => exact ⟨rfl, rfl, rfl, rfl⟩

theorem step_withFetchWord_encode (s : State) (i : Instr) :
    step (s.withFetchWord 8 (encode i).toNat) = exec i (selectInstr i s) := by
  have hfetch : s.withFetchWord 8 (encode i).toNat =
      { selectInstr i s with offers := .word (encode i) :: s.offers } := by
    simp only [State.withFetchWord, tableWord_toNat, offerWord, decode_encode]
  rw [hfetch, step_of_offers_cons rfl, offerOne_of_dispatch_encode rfl, ← selectInstr_offers i s]

/-- Settles O10: the placed word is the next offer, it decodes to its operation, and the state made for it enables that. -/
theorem placedWordRunsItsOperation : Obligations.PlacedWordRunsItsOperation := by
  intro s i
  have hx := exec_of_canOccur (canOccur_selectInstr i s)
  exact ⟨_, (step_withFetchWord_encode s i).trans hx, hx⟩

end Sys2Proof.Machine
end

section
/-! PROOF. Event scripts (R82): a script runs exactly when it has an encoding, and a resolved STEP is the offered STEP under its own mnemonic. -/

namespace Sys2Proof.Machine

variable {s t : State} {o : Offer} {i : Instr}

/-! ### Running and encoding offers -/

theorem offerOne_next_iff :
    offerOne o s = .next t ↔ ∃ dw i, dispatch o s = .next dw ∧ decode dw = .ok i ∧ exec i s = .next t :=
  ⟨offerOne_next, fun ⟨_, _, hd, hi, hx⟩ => (offerOne_of_decode_ok hd hi).trans hx⟩

/-- An offer occurs with some operation exactly when offering it answers a next state. -/
theorem offerOne_next_iff_occurrence : offerOne o s = .next t ↔ ∃ i, occurrence o s = some (i, t) := by
  simp only [offerOne_next_iff, occurrence_eq_some]
  exact exists_comm

theorem encodeOffers_cons {rest : List Offer} {ws : List Byte} :
    encodeOffers (o :: rest) s = some ws ↔
      ∃ i t ws', occurrence o s = some (i, t) ∧ encodeOffers rest t = some ws' ∧ ws = dispatchWord (eventOf i) s :: ws' := by
  rw [encodeOffers]
  cases occurrence o s with
  | none => simp
  | some p =>
    obtain ⟨i, t⟩ := p
    simp [eq_comm]

theorem runOffers_cons {rest : List Offer} {u : State} :
    runOffers (o :: rest) s = .next u ↔ ∃ t, offerOne o s = .next t ∧ runOffers rest t = .next u := by
  rw [runOffers]
  cases offerOne o s <;> simp

/-- Offers run to the end exactly when each of them has a word. -/
theorem runOffers_next_iff (os : List Offer) (s : State) :
    (∃ t, runOffers os s = .next t) ↔ ∃ ws, encodeOffers os s = some ws := by
  induction os generalizing s with
  | nil => exact ⟨fun _ => ⟨[], rfl⟩, fun _ => ⟨s, rfl⟩⟩
  | cons o rest ih =>
    constructor
    · rintro ⟨u, hrun⟩
      obtain ⟨t, ho, hrest⟩ := runOffers_cons.mp hrun
      obtain ⟨i, hocc⟩ := offerOne_next_iff_occurrence.mp ho
      obtain ⟨ws, hws⟩ := (ih t).mp ⟨u, hrest⟩
      exact ⟨_, encodeOffers_cons.mpr ⟨i, t, ws, hocc, hws, rfl⟩⟩
    · rintro ⟨ws, henc⟩
      obtain ⟨i, t, ws', hocc, hws, -⟩ := encodeOffers_cons.mp henc
      obtain ⟨u, hrest⟩ := (ih t).mpr ⟨ws', hws⟩
      exact ⟨u, runOffers_cons.mpr ⟨t, offerOne_next_iff_occurrence.mpr ⟨i, hocc⟩, hrest⟩⟩

theorem scriptWellFormed_iff {script : List Line} :
    scriptWellFormed script s = true ↔ ∃ t, runOffers (expandScript script) s = .next t := by
  rw [scriptWellFormed]
  cases runOffers (expandScript script) s <;> simp

/-! ### A resolved STEP -/

theorem eventOf_of_isStep (h : isStep i = true) : eventOf i = .step := by
  cases i with
  | reset | arm | edge | shift e | inbegin | inend => cases h
  | _ => rfl

/-- A resolved STEP has the word of the offered STEP where that is of its mnemonic's row, and no other word (R82). -/
theorem dispatch_resolved_step {dw : Byte} (h : isStep i = true) :
    dispatch (.resolved i) s = .next dw ↔ dispatch (.event .step) s = .next dw ∧ i.row.hits dw = true := by
  simp only [dispatch, eventOf_of_isStep h]
  exact assertRow_next

theorem offerOne_resolved_step (h : isStep i = true) :
    offerOne (.resolved i) s = .next t ↔
      offerOne (.event .step) s = .next t ∧ i.row.hits (dispatchWord .step s) = true := by
  simp only [offerOne_next_iff, dispatch_resolved_step h]
  constructor
  · rintro ⟨dw, j, ⟨hd, hhits⟩, hj, hx⟩
    exact ⟨⟨dw, j, hd, hj, hx⟩, dispatch_event_next hd ▸ hhits⟩
  · rintro ⟨⟨dw, j, hd, hj, hx⟩, hhits⟩
    exact ⟨dw, j, ⟨hd, dispatch_event_next hd ▸ hhits⟩, hj, hx⟩

/-- Settles O48: the first clauses take `encodeOffers` apart at its first offer, the others a resolved STEP into the offered one. -/
theorem scriptWordsAreTheDispatchFunctions : Obligations.ScriptWordsAreTheDispatchFunctions := by
  refine ⟨fun o rest s ws henc => ?first, fun script s => ?wellFormed, fun i s dw h => dispatch_resolved_step h,
    fun i s t h => offerOne_resolved_step h, fun s a hts hi he => ?stepDac⟩
  case first =>
    obtain ⟨i, t, ws', hocc, hrest, hws⟩ := encodeOffers_cons.mp henc
    obtain ⟨dw, hd, hdec, hx⟩ := occurrence_eq_some.mp hocc
    exact ⟨dw, i, t, ws', hd, hdec, hx, offerOne_next_iff.mpr ⟨dw, i, hd, hdec, hx⟩, hws, hrest⟩
  case wellFormed => rw [scriptWellFormed_iff, runOffers_next_iff, encodeScript]
  case stepDac =>
    have hx := exec_of_canOccur (i := .stepDac (receivedBit s)) (s := s) ⟨hi, he, hts, rfl⟩
    have hstep := dispatch_step_of_ready (u := .dataAckCheck) hi he hts
    have hhits := hits_of_decode (decode_encode (.stepDac (receivedBit s)))
    have hocc := occurrence_eq_some.mpr
      ⟨_, (dispatch_resolved_step (i := .stepDac a) rfl).mpr ⟨hstep, hhits⟩, decode_encode _, hx⟩
    have hword : dispatchWord .step s = if s.sr.getLsbD 0 then 0x94#8 else 0x84#8 :=
      (dispatch_event_next hstep).symm.trans (encode_stepDac (receivedBit s))
    exact encodeOffers_cons.mpr ⟨_, _, [], hocc, rfl, hword ▸ rfl⟩

end Sys2Proof.Machine
end

section
/-! PROOF. The seven STEPs (40_transaction_fsm.md): when each occurs and what it leaves, where none does, and the transitions of `ts`. -/

namespace Sys2Proof.Machine

/-! ### Enabling and next state -/

section
variable {i : Instr} {s t u : State}

theorem enabled_iff_canOccur : enabled i s ↔ canOccur i s :=
  ⟨fun ⟨_, h⟩ => canOccur_of_exec_next h, fun h => ⟨_, exec_of_canOccur h⟩⟩

/-- Where the sampled bit decides nothing a STEP waits for its request and its state only (R90). -/
theorem stepReady_true_iff {here : TState} :
    stepReady here true s ↔ s.seIfg = true ∧ s.seIe = true ∧ s.ts = here.code := by simp [stepReady]

/-- An operation without events that occurs leaves its registers and the trace as it was. -/
theorem exec_of_silent (h : canOccur i s) (hsilent : eventsOf i s = []) : exec i s = .next (registersAfter i s) := by
  rw [exec_of_canOccur h, effect_of_silent hsilent]

/-- A SHIFT with the output disabled presents nothing and samples the environment's bit (R53, R105). -/
theorem effect_shift_released (e : Bool) (hoe : s.oe = false) :
    effect (.shift e) s = { s with
      sr := shiftIn s.sr e, cnt := s.cnt - 1#4, seIfg := flagAfterShift (s.cnt - 1#4) s.seIfg,
      tr := s.tr ++ [.bit .z e] } := by
  simp only [effect, registersAfter, eventsOf, presented_of_input hoe, sampledLevel_z]

/-- The SHIFT of an ack slot brings the slave's bit into bit 0 of `sr`, the rest moved up (R92, R105). -/
theorem sr_after_released_shift {e : Bool} (hoe : t.oe = false) (h : exec (.shift e) t = .next u) :
    u.sr = BitVec.ofNat 8 (t.sr.toNat * 2 % 256 + e.toNat) ∧ u.sr.getLsbD 0 = e := by
  obtain ⟨-, rfl⟩ := exec_next_iff.mp h
  rw [effect_shift_released e hoe]
  refine ⟨(shiftIn_eq_ofNat t.sr e).trans ?_, shiftIn_getLsbD_zero t.sr e⟩
  exact BitVec.eq_of_toNat_eq (by simp only [BitVec.toNat_ofNat]; omega)

/-- The word of a granted STEP is that of the STEP its state selects (R76). -/
theorem dispatchWord_step {c : TState} (hts : s.ts = c.code) :
    dispatchWord .step s = encode (stepOf c (receivedBit s)) := by
  rw [encode_stepOf, dispatchWord, ackSample, hts, TState.ofCode_code]

/-! ### Where a STEP does not occur -/

/-- Every STEP is a service of the serial-engine request (R90). -/
theorem exec_eq_stepService (h : isStep i = true) (s : State) :
    ∃ here admits body, exec i s = stepService here admits body s := by
  cases i with
  | reset | arm | edge | shift e | inbegin | inend => cases h
  | _ => exact ⟨_, _, _, rfl⟩

theorem exec_step_of_not_ready (h : isStep i = true) (hready : ¬ (s.seIfg = true ∧ s.seIe = true)) :
    exec i s = .refused .stepNotEnabled := by
  obtain ⟨here, admits, body, hx⟩ := exec_eq_stepService h s
  rw [hx, stepService_not_ready hready]

theorem exec_step_of_no_request (h : isStep i = true) (hflag : s.seIfg = false) : exec i s = .refused .stepNotEnabled :=
  exec_step_of_not_ready h (by simp [hflag])

theorem exec_step_of_illegal (h : isStep i = true) (hi : s.seIfg = true) (he : s.seIe = true)
    (hts : s.ts = 6#3 ∨ s.ts = 7#3) : exec i s = .fault .illegalState := by
  obtain ⟨here, admits, body, hx⟩ := exec_eq_stepService h s
  rw [hx, stepService_illegal hi he hts]

/-- A granted request with `ts` at code 6 or 7 faults before a word is formed (R81). -/
theorem dispatch_step_of_illegal (hi : s.seIfg = true) (he : s.seIe = true) (hts : s.ts = 6#3 ∨ s.ts = 7#3) :
    dispatch (.event .step) s = .fault .illegalState := by
  simp [dispatch, dispatchEvent, seGranted_eq, hi, he, TState.ofCode_eq_none.mpr hts]

/-- A STEP that occurs is of the row of the STEP its state selects: the same one, but for the bit that STEP.DAC is written with. -/
theorem row_eq_of_canOccur {c : TState} (h : isStep i = true) (hts : s.ts = c.code) (hc : canOccur i s) :
    i.row = (stepOf c (receivedBit s)).row := by
  have own {here : TState} {admits : Bool} (hr : stepReady here admits s) : c = here ∧ admits = true :=
    have ⟨_, _, hhere, ha⟩ := hr
    ⟨TState.code_injective (hts.symm.trans hhere), ha⟩
  cases i with
  | reset | arm | edge | shift e | inbegin | inend => cases h
  | stepAacAck =>
    obtain ⟨rfl, ha⟩ := own hc
    rw [(Bool.not_eq_true' _).mp ha]
    rfl
  | stepAacNack =>
    obtain ⟨rfl, ha⟩ := own hc
    rw [ha]
    rfl
  | _ =>
    obtain ⟨rfl, -⟩ := own hc
    rfl

theorem exec_step_of_not_selected {c : TState} (h : isStep i = true) (hi : s.seIfg = true) (he : s.seIe = true)
    (hts : s.ts = c.code) (hrow : i.row ≠ (stepOf c (receivedBit s)).row) : exec i s = .refused .stepNotSelected := by
  have hrefusal : refusalOf i s = .stepNotSelected := by
    cases i with
    | reset | arm | edge | shift e | inbegin | inend => cases h
    | _ => exact if_pos (seGranted_iff.mpr ⟨hi, he⟩)
  rw [exec_of_not_canOccur hts fun hc => hrow (row_eq_of_canOccur h hts hc), hrefusal]

end

/-! ### The obligations on one STEP -/

/-- Settles O18: a STEP is a service of the request, refused or faulted before its body; and one that occurs is of the selected row. -/
theorem stepsThatDoNotOccur : Obligations.StepsThatDoNotOccur := by
  intro s i h
  refine ⟨exec_step_of_not_ready h, fun hi he hts => ⟨exec_step_of_illegal h hi he hts, ?offered⟩,
    fun j hi he hsel hrow => ?notSelected⟩
  case offered => exact offerOne_of_dispatch_fault (dispatch_step_of_illegal hi he hts)
  case notSelected =>
    obtain ⟨c, hts, rfl⟩ := exists_code_of_selectedStep hsel
    exact exec_step_of_not_selected h hi he hts hrow

/-- Settles O19: RESET and the seven STEPs are the operations that write `ts`, a STEP from the state that enables it. -/
theorem stateTransitionRelation : Obligations.StateTransitionRelation := by
  intro i s t h hne
  obtain ⟨hc, rfl⟩ := exec_next_iff.mp h
  cases i with
  | reset => exact .inl ⟨rfl, rfl⟩
  | arm | edge | shift e | inbegin | inend => exact absurd rfl hne
  | stepAacAck | stepAacNack =>
    obtain ⟨-, -, hts, ha⟩ := hc
    simpa [effect, registersAfter, receivedBit, TState.code] using And.intro hts ha
  | _ =>
    obtain ⟨-, -, hts, -⟩ := hc
    simpa [effect, registersAfter, TState.code] using hts

/-- A STEP leaves its state and clears the request it serves (R99, R145). -/
theorem step_leaves_its_state {i : Instr} {s : State} (h : isStep i = true) (hc : canOccur i s) :
    (effect i s).ts ≠ s.ts ∧ (effect i s).seIfg = false := by
  cases i with
  | reset | arm | edge | shift e | inbegin | inend => cases h
  | _ =>
    obtain ⟨-, -, hts, -⟩ := hc
    rw [hts]
    exact ⟨by simp [effect, registersAfter, TState.code], rfl⟩

/-- Only ARM and a SHIFT that completes its transfer raise the serial-engine request (R106, R126). -/
theorem request_raised_by {i : Instr} {s : State} (hc : canOccur i s) (hbefore : s.seIfg = false)
    (hafter : (effect i s).seIfg = true) :
    i = .arm ∧ s.ts = 0#3 ∨ (∃ e, i = .shift e) ∧ (effect i s).cnt = 0#4 := by
  cases i with
  | arm => exact .inl ⟨rfl, hc.1⟩
  | shift e =>
    have hdone : flagAfterShift (s.cnt - 1#4) s.seIfg = true := hafter
    rw [hbefore, flagAfterShift, Bool.false_or, beq_iff_eq] at hdone
    exact .inr ⟨⟨e, rfl⟩, hdone⟩
  | edge | inbegin | inend => exact absurd (hbefore.symm.trans hafter) Bool.false_ne_true
  | _ => cases hafter

/-- Settles O20: the frame of `ts`, the cleared request that refuses the next STEP, and the two operations that raise it anew. -/
theorem oneStepPerInterrupt : Obligations.OneStepPerInterrupt := by
  intro i s t h
  obtain ⟨hc, rfl⟩ := exec_next_iff.mp h
  refine ⟨fun hne => ?writer, fun hstep => ?step, request_raised_by hc⟩
  case writer =>
    cases i with
    | reset => exact .inr rfl
    | arm | edge | shift e | inbegin | inend => exact absurd rfl hne
    | _ => exact .inl rfl
  case step =>
    obtain ⟨hts, hflag⟩ := step_leaves_its_state hstep hc
    exact ⟨hts, hflag, fun j hj => exec_step_of_no_request hj hflag⟩

/-- Settles O11: its enabling and its effect. -/
theorem stepStartResult : Obligations.StepStartResult :=
  ⟨rfl, fun _ => ⟨enabled_iff_canOccur.trans stepReady_true_iff,
    fun hi he hts => exec_of_canOccur (i := .stepStart) ⟨hi, he, hts, rfl⟩⟩⟩

/-- Settles O12: its enabling and its effect, which disables the output for the SHIFT that follows. -/
theorem stepAawResult : Obligations.StepAawResult := by
  refine ⟨rfl, fun s => ⟨enabled_iff_canOccur.trans stepReady_true_iff,
    fun hi he hts => exec_of_silent (i := .stepAaw) ⟨hi, he, hts, rfl⟩ rfl, fun t u e ht hu => ?slot⟩⟩
  case slot =>
    obtain ⟨-, -, -, rfl⟩ := execStepAaw_next ht
    exact sr_after_released_shift (t := registersAfter .stepAaw s) rfl hu

/-- Settles O15: as STEP.AAW, in the data phase. -/
theorem stepDawResult : Obligations.StepDawResult := by
  refine ⟨rfl, fun s => ⟨enabled_iff_canOccur.trans stepReady_true_iff,
    fun hi he hts => exec_of_silent (i := .stepDaw) ⟨hi, he, hts, rfl⟩ rfl, fun t u e ht hu => ?slot⟩⟩
  case slot =>
    obtain ⟨-, -, -, rfl⟩ := execStepDaw_next ht
    exact sr_after_released_shift (t := registersAfter .stepDaw s) rfl hu

/-- Settles O13: its enabling, which reads the sampled bit, and its effect, which loads `data`. -/
theorem stepAacAckResult : Obligations.StepAacAckResult := by
  refine ⟨rfl, fun s => ⟨enabled_iff_canOccur.trans ?enabling, fun hi he hts hbit => ?next⟩⟩
  case enabling => simp [canOccur, stepReady, receivedBit, TState.code]
  case next =>
    have hzext : BitVec.ofNat 8 s.data.toNat = s.data.setWidth 8 := BitVec.ofNat_toNat 8 s.data
    rw [hzext]
    exact exec_of_silent (i := .stepAacAck) ⟨hi, he, hts, (Bool.not_eq_true' _).mpr hbit⟩ rfl

/-- Settles O14: its enabling, which reads the sampled bit, and its effect. -/
theorem stepAacNackResult : Obligations.StepAacNackResult :=
  ⟨rfl, fun _ => ⟨enabled_iff_canOccur, fun hi he hts hbit => exec_of_silent (i := .stepAacNack) ⟨hi, he, hts, hbit⟩ rfl⟩⟩

/-- Settles O16: no part of its enabling or of its effect looks at a sampled bit, and the effect is that of STEP.AAC.NACK. -/
theorem stepDacResult : Obligations.StepDacResult := by
  refine ⟨rfl, rfl, fun s a => ⟨enabled_iff_canOccur.trans stepReady_true_iff,
    dispatchWord_step (c := .dataAckCheck), fun hi he hts => ?next⟩⟩
  have hdac : exec (.stepDac a) s = .next (registersAfter (.stepDac a) s) :=
    exec_of_silent ⟨hi, he, hts, rfl⟩ rfl
  refine ⟨hdac, fun hbit => ?nack⟩
  rw [hdac]
  exact exec_of_silent (i := .stepAacNack) (s := { s with ts := 2#3 }) ⟨hi, he, rfl, hbit⟩ rfl

/-- Settles O17: its effect clears the request, so no STEP follows, and leaves `cnt`, so no SHIFT follows at 0. -/
theorem stepStopResult : Obligations.StepStopResult := by
  refine ⟨rfl, fun s => ⟨enabled_iff_canOccur.trans stepReady_true_iff, fun hi he hts =>
    ⟨effect .stepStop s, exec_of_canOccur ⟨hi, he, hts, rfl⟩, rfl, fun i hstep => ?noStep, fun hcnt e => ?noShift⟩⟩⟩
  case noStep =>
    rintro ⟨t, hx⟩
    rw [exec_step_of_no_request hstep rfl] at hx
    cases hx
  case noShift =>
    rw [enabled_iff_canOccur]
    exact not_not_intro hcnt

end Sys2Proof.Machine
end

section
/-! PROOF. A whole transaction (R98): its run, one transfer at a time, and the bytes read from its trace (R55). -/

namespace Sys2Proof.Machine

/-! ### One STEP and the transfer it configures -/

/-- A list of operations that runs to a state goes on from there. -/
theorem runInstrs_append_of_next {ops rest : List Instr} {s t : State} (h : runInstrs ops s = .next t) :
    runInstrs (ops ++ rest) s = runInstrs rest t := by
  induction ops generalizing s with
  | nil =>
    cases h
    rfl
  | cons i ops ih =>
    cases hx : exec i s with
    | next u =>
      rw [runInstrs_cons_of_next hx] at h
      rw [List.cons_append, runInstrs_cons_of_next hx, ih h]
    | fault f => simp [runInstrs, hx] at h
    | refused r => simp [runInstrs, hx] at h

/-- A transaction begun in `s`, its last transfer done and the STEP of state `c` requested; `events` are the wire events so far. -/
def awaiting (s : State) (c : TState) (sr : Byte) (oe ge : Bool) (events : List TraceEvent) : State :=
  { s with ts := c.code, sr := sr, cnt := 0#4, oe := oe, ge := ge, seIfg := true, tr := s.tr ++ events }

/-- A block at rest and armed awaits STEP.START. -/
theorem eq_awaiting_start {s : State} (hts : s.ts = 0#3) (hcnt : s.cnt = 0#4) (hi : s.seIfg = true) :
    s = awaiting s .start s.sr s.oe s.ge [] := by
  rw [awaiting, List.append_nil, show TState.start.code = s.ts from hts.symm, ← hcnt, ← hi]

/-- A STEP that loads a driven transfer, and the SHIFTs of that transfer. -/
theorem runInstrs_step_driven {i : Instr} {s t : State} {es : List Bool} (hx : exec i s = .next t) (hoe : t.oe = true)
    (hne : es ≠ []) (hlen : es.length ≤ 8) (hcnt : t.cnt = BitVec.ofNat 4 es.length) :
    runInstrs (i :: shifts es) s =
      .next { t with sr := srAfterDriven t.sr es, cnt := 0#4, seIfg := true, tr := t.tr ++ drivenBits t.sr es } := by
  have hraised : (t.seIfg || !es.isEmpty) = true := by
    rw [List.isEmpty_eq_false_iff.mpr hne, Bool.not_false, Bool.or_true]
  rw [runInstrs_cons_of_next hx, runInstrs_shifts_driven es t hoe hlen hcnt, hraised]

/-- A STEP that releases the line for an ack slot, and the SHIFT of that slot. -/
theorem runInstrs_step_released {i : Instr} {s t : State} (e : Bool) (hx : exec i s = .next t) (hoe : t.oe = false)
    (hcnt : t.cnt = 1#4) :
    runInstrs [i, .shift e] s =
      .next { t with sr := shiftIn t.sr e, cnt := 0#4, seIfg := true, tr := t.tr ++ [.bit .z e] } := by
  have hslot : exec (.shift e) t = .next (effect (.shift e) t) :=
    exec_of_canOccur (show t.cnt ≠ 0#4 by rw [hcnt]; decide)
  rw [runInstrs_cons_of_next hx, runInstrs_cons_of_next hslot, runInstrs, effect_shift_released e hoe, hcnt]
  simp [flagAfterShift]

/-! ### The five transfers of a transaction -/

section
variable {s : State} {sr : Byte} {oe ge : Bool} {events : List TraceEvent} {es : List Bool}

/-- The request of an awaited STEP is ready while the enable is on. -/
theorem stepReady_awaiting {c : TState} {admits : Bool} (he : s.seIe = true) (ha : admits = true) :
    stepReady c admits (awaiting s c sr oe ge events) := ⟨rfl, he, rfl, ha⟩

theorem runInstrs_addressByte (he : s.seIe = true) (hlen : es.length = 8) :
    runInstrs (.stepStart :: shifts es) (awaiting s .start sr oe ge events) =
      .next (awaiting s .addrAckWait (srAfterDriven 0x90#8 es) true false
        (events ++ .start :: drivenBits 0x90#8 es)) := by
  have hx := exec_of_canOccur (i := .stepStart) (s := awaiting s .start sr oe ge events) (stepReady_awaiting he rfl)
  rw [runInstrs_step_driven hx rfl (List.ne_nil_of_length_eq_add_one hlen) hlen.le (by rw [hlen]; rfl)]
  simp [awaiting, effect, registersAfter, eventsOf]

theorem runInstrs_addressAck (he : s.seIe = true) (e : Bool) :
    runInstrs [.stepAaw, .shift e] (awaiting s .addrAckWait sr oe ge events) =
      .next (awaiting s .addrAckCheck (shiftIn sr e) false ge (events ++ [.bit .z e])) := by
  have hx := exec_of_silent (i := .stepAaw) (s := awaiting s .addrAckWait sr oe ge events) (stepReady_awaiting he rfl) rfl
  rw [runInstrs_step_released e hx rfl rfl]
  simp [awaiting, registersAfter]

theorem runInstrs_dataByte (he : s.seIe = true) (hack : sr.getLsbD 0 = false) (hlen : es.length = 8) :
    runInstrs (.stepAacAck :: shifts es) (awaiting s .addrAckCheck sr oe ge events) =
      .next (awaiting s .dataAckWait (srAfterDriven (s.data.setWidth 8) es) true ge
        (events ++ drivenBits (s.data.setWidth 8) es)) := by
  have hx := exec_of_silent (i := .stepAacAck) (s := awaiting s .addrAckCheck sr oe ge events)
    (stepReady_awaiting he ((Bool.not_eq_true' _).mpr hack)) rfl
  rw [runInstrs_step_driven hx rfl (List.ne_nil_of_length_eq_add_one hlen) hlen.le (by rw [hlen]; rfl)]
  simp [awaiting, registersAfter]

theorem runInstrs_dataAck (he : s.seIe = true) (e : Bool) :
    runInstrs [.stepDaw, .shift e] (awaiting s .dataAckWait sr oe ge events) =
      .next (awaiting s .dataAckCheck (shiftIn sr e) false ge (events ++ [.bit .z e])) := by
  have hx := exec_of_silent (i := .stepDaw) (s := awaiting s .dataAckWait sr oe ge events) (stepReady_awaiting he rfl) rfl
  rw [runInstrs_step_released e hx rfl rfl]
  simp [awaiting, registersAfter]

theorem exec_stepDac_awaiting (he : s.seIe = true) (a : Bool) :
    exec (.stepDac a) (awaiting s .dataAckCheck sr oe ge events) =
      .next (registersAfter (.stepDac a) (awaiting s .dataAckCheck sr oe ge events)) :=
  exec_of_silent (stepReady_awaiting he rfl) rfl

theorem exec_stepAacNack_awaiting (he : s.seIe = true) (hnack : sr.getLsbD 0 = true) :
    exec .stepAacNack (awaiting s .addrAckCheck sr oe ge events) =
      .next (registersAfter .stepAacNack (awaiting s .addrAckCheck sr oe ge events)) :=
  exec_of_silent (stepReady_awaiting he hnack) rfl

/-- A driven 0 against whatever the environment does, shifted through a register of zeros. -/
theorem stopPrep_bit (last : Bool) :
    drivenBits 0x00#8 [last] = [.bit (.driven false) false] ∧ srAfterDriven 0x00#8 [last] = 0x00#8 := by
  revert last
  decide

/-- The end of both transactions: either STEP that prepares STOP, the stop-preparation bit, STEP.STOP (R94, R96, R97). -/
theorem runInstrs_stopPhase {i : Instr} {c : TState} (he : s.seIe = true) (last : Bool)
    (hx : exec i (awaiting s c sr oe ge events) = .next (registersAfter .stepAacNack (awaiting s c sr oe ge events))) :
    runInstrs [i, .shift last, .stepStop] (awaiting s c sr oe ge events) =
      .next { s with
        ts := 0#3, sr := 0xFF#8, cnt := 0#4, oe := false, ge := false, seIfg := false,
        tr := s.tr ++ (events ++ [.bit (.driven false) false, .stop, .wake]) } := by
  obtain ⟨hbit, hsr⟩ := stopPrep_bit last
  have hprepared : runInstrs [i, .shift last] (awaiting s c sr oe ge events) =
      .next (awaiting s .stop 0x00#8 true ge (events ++ [.bit (.driven false) false])) := by
    refine (runInstrs_step_driven (es := [last]) hx rfl (List.cons_ne_nil _ _) (by simp) rfl).trans ?_
    simp [awaiting, registersAfter, hbit, hsr]
  have hstop := exec_of_canOccur (i := .stepStop)
    (s := awaiting s .stop 0x00#8 true ge (events ++ [.bit (.driven false) false])) (stepReady_awaiting he rfl)
  have hrun := runInstrs_append_of_next (rest := [.stepStop]) hprepared
  rw [runInstrs_cons_of_next hstop] at hrun
  refine hrun.trans ?_
  simp [runInstrs, awaiting, effect, registersAfter, eventsOf, TState.code]

end

/-! ### Reading the bytes of a trace -/

/-- The scan buffers the bits of an open frame (R55). -/
theorem bytesFrom_bits (frame buf : List (Drive × Bool)) (rest : List TraceEvent) (hlen : buf.length + frame.length < 9) :
    bytesFrom true buf (frame.map (fun p => .bit p.1 p.2) ++ rest) = bytesFrom true (buf ++ frame) rest := by
  induction frame generalizing buf with
  | nil => simp
  | cons p frame ih =>
    rw [List.length_cons] at hlen
    have hbuffered : (buf ++ [(p.1, p.2)]).length = buf.length + 1 := List.length_append
    have hopen : ¬ (buf ++ [(p.1, p.2)]).length = 9 := by omega
    rw [List.map_cons, List.cons_append, bytesFrom, if_pos rfl]
    simp only [if_neg hopen]
    rw [ih _ (by omega), List.append_assoc, List.singleton_append]

/-- The bits of a driven byte as the scan buffers them. -/
def drivenFrame (b : Byte) (es : List Bool) : List (Drive × Bool) :=
  es.zipIdx.map fun p => (.driven (b.getLsbD (7 - p.2)), b.getLsbD (7 - p.2) && p.1)

theorem drivenBits_eq_map_drivenFrame (b : Byte) (es : List Bool) :
    drivenBits b es = (drivenFrame b es).map fun p => .bit p.1 p.2 := by
  simp [drivenBits, drivenFrame]

theorem length_drivenFrame (b : Byte) (es : List Bool) : (drivenFrame b es).length = es.length := by
  simp [drivenFrame]

/-- A byte is its bits, most significant first (R54). -/
theorem byteOfBits_bits (b : Byte) : byteOfBits ((List.range' 0 8).map fun n => b.getLsbD (7 - n)) = b := by
  revert b
  decide

/-- The presented bits of a driven byte make the byte, whatever was sampled (R55). -/
theorem mapM_bit_drivenFrame (b : Byte) (es : List Bool) :
    (drivenFrame b es).mapM (fun p => p.1.bit?) = some ((List.range' 0 es.length).map fun n => b.getLsbD (7 - n)) := by
  rw [← List.zipIdx_map_snd, List.map_map, drivenFrame, List.mapM_map]
  exact List.mapM_pure

theorem frameByte_driven (b : Byte) {es : List Bool} (hlen : es.length = 8) (ack : Bool) :
    frameByte (drivenFrame b es ++ [(.z, ack)]) = some (b, ack) := by
  have hframe : (drivenFrame b es).length = 8 := (length_drivenFrame b es).trans hlen
  rw [frameByte, List.take_left' hframe, List.drop_left' hframe, mapM_bit_drivenFrame, hlen]
  simp [ackOfBit, byteOfBits_bits]

/-- A driven byte and its ack slot are one element of the bytes (R55). -/
theorem bytesFrom_frame (b : Byte) {es : List Bool} (hlen : es.length = 8) (ack : Bool) {rest : List TraceEvent}
    {bs : List (Byte × Bool)} (hrest : bytesFrom true [] rest = some bs) :
    bytesFrom true [] (drivenBits b es ++ .bit .z ack :: rest) = some ((b, ack) :: bs) := by
  have hframe : (drivenFrame b es).length = 8 := (length_drivenFrame b es).trans hlen
  rw [drivenBits_eq_map_drivenFrame, bytesFrom_bits _ _ _ (by simp [hframe]), List.nil_append, bytesFrom]
  simp [hframe, frameByte_driven b hlen, hrest]

/-- The stop-preparation bit belongs to no frame (R55). -/
theorem bytesFrom_stopPhase : bytesFrom true [] [.bit (.driven false) false, .stop, .wake] = some [] := by decide

/-! ### The obligations -/

/-- Settles O43: the five segments in order, each begun where the last one ended. -/
theorem acknowledgedTransaction : Obligations.AcknowledgedTransaction := by
  intro s addr dat a2 last haddr hdat hts hcnt hi he
  refine ⟨_, rfl, ?run, ?bytes⟩
  case run =>
    have hpath : ackPath addr dat a2 last =
        (Instr.stepStart :: shifts addr) ++ ([Instr.stepAaw, .shift false] ++ ((Instr.stepAacAck :: shifts dat) ++
          ([Instr.stepDaw, .shift a2] ++ [Instr.stepDac a2, .shift last, .stepStop]))) := by simp [ackPath]
    rw [hpath]
    conv_lhs => rw [eq_awaiting_start hts hcnt hi]
    rw [runInstrs_append_of_next (runInstrs_addressByte he haddr),
      runInstrs_append_of_next (runInstrs_addressAck he false),
      runInstrs_append_of_next (runInstrs_dataByte he (shiftIn_getLsbD_zero _ false) hdat),
      runInstrs_append_of_next (runInstrs_dataAck he a2),
      runInstrs_stopPhase he last (exec_stepDac_awaiting he a2)]
    simp [hts, hcnt]
  case bytes =>
    have hdata := bytesFrom_frame (s.data.setWidth 8) hdat a2 bytesFrom_stopPhase
    have haddress := bytesFrom_frame 0x90#8 haddr false hdata
    rw [bytes, List.cons_append, List.cons_append, bytesFrom]
    simpa using haddress

/-- Settles O44: the address phase with its slot sampled high, which selects STEP.AAC.NACK, then the same end. -/
theorem unacknowledgedTransaction : Obligations.UnacknowledgedTransaction := by
  intro s addr last haddr hts hcnt hi he
  refine ⟨_, rfl, ?run, ?bytes, rfl⟩
  case run =>
    have hpath : nackPath addr last =
        (Instr.stepStart :: shifts addr) ++ ([Instr.stepAaw, .shift true] ++ [Instr.stepAacNack, .shift last, .stepStop]) := by
      simp [nackPath]
    rw [hpath]
    conv_lhs => rw [eq_awaiting_start hts hcnt hi]
    rw [runInstrs_append_of_next (runInstrs_addressByte he haddr),
      runInstrs_append_of_next (runInstrs_addressAck he true),
      runInstrs_stopPhase he last (exec_stepAacNack_awaiting he (shiftIn_getLsbD_zero _ true))]
    simp [hts, hcnt]
  case bytes =>
    have haddress := bytesFrom_frame 0x90#8 haddr true bytesFrom_stopPhase
    rw [bytes, List.cons_append, bytesFrom]
    exact haddress

end Sys2Proof.Machine
end

section
/-! PROOF. One SHIFT in the numbers of R105, driven or released; and the drive of the data line after each operation (R109, R34). -/

namespace Sys2Proof.Machine

/-! ### One SHIFT in numbers -/

/-- `shiftIn_eq_ofNat` with the bit that leaves `sr[7]` dropped before the sampled bit is added. -/
theorem shiftIn_eq_ofNat_mod (sr : Byte) (level : Bool) :
    shiftIn sr level = BitVec.ofNat 8 (sr.toNat * 2 % 256 + level.toNat) :=
  (shiftIn_eq_ofNat sr level).trans (BitVec.eq_of_toNat_eq (by simp only [BitVec.toNat_ofNat]; omega))

/-- A counter with a bit left counts down without wrapping (R24). -/
theorem sub_one_eq_ofNat {cnt : Nibble} (h : cnt ≠ 0#4) : cnt - 1#4 = BitVec.ofNat 4 (cnt.toNat - 1) := by bv_omega

/-- The flag is raised by the SHIFT of the last bit and by no other (R106). -/
theorem flagAfterShift_sub_one (cnt : Nibble) (seIfg : Bool) :
    flagAfterShift (cnt - 1#4) seIfg = (seIfg || decide (cnt = 1#4)) := by
  have hlast : cnt - 1#4 = 0#4 ↔ cnt = 1#4 := by bv_omega
  simp only [flagAfterShift, beq_eq_decide, hlast]

theorem effect_shift_eq {s : State} (e : Bool) (h : s.cnt ≠ 0#4) :
    effect (.shift e) s = { s with
      sr := BitVec.ofNat 8 (s.sr.toNat * 2 % 256 + (sampledLevel (presented s) e).toNat),
      cnt := BitVec.ofNat 4 (s.cnt.toNat - 1), seIfg := s.seIfg || decide (s.cnt = 1#4),
      tr := s.tr ++ [.bit (presented s) (sampledLevel (presented s) e)] } := by
  rw [← shiftIn_eq_ofNat_mod, ← sub_one_eq_ofNat h, ← flagAfterShift_sub_one]
  rfl

theorem exec_shift_of_no_transfer {s : State} (e : Bool) (h : s.cnt = 0#4) :
    exec (.shift e) s = .refused .shiftNotEnabled :=
  if_neg fun hp => transferPending_iff.mp hp h

/-- Settles O21: the bit presented is the witness, and the wired-AND of it and the environment's bit is the level. -/
theorem shiftResult : Obligations.ShiftResult := by
  refine ⟨rfl, rfl, fun s e => ⟨exec_shift_of_no_transfer e, fun hcnt =>
    ⟨presented s, sampledLevel (presented s) e, fun hoe => ?driven, fun hoe => ?released, ?next⟩⟩⟩
  case driven => exact ⟨presented_of_oe hoe, by rw [presented_of_oe hoe, sampledLevel_driven]⟩
  case released => exact ⟨presented_of_input hoe, by rw [presented_of_input hoe, sampledLevel_z]⟩
  case next => rw [← effect_shift_eq e hcnt]; exact exec_of_canOccur hcnt

/-! ### The drive of the data line after an operation -/

section
variable {i : Instr} {s t : State}

/-- The pass-through is on only inside START and STOP generation: no operation leaves it on (R110, R111). -/
theorem ge_effect (i : Instr) (hge : s.ge = false) : (effect i s).ge = false := by
  cases i with
  | stepStart | stepStop | reset => rfl
  | _ => exact hge

/-- With the pass-through off before an operation, the drive after it is the bit last presented, or released (R109). -/
theorem sdaDrive_effect (i : Instr) (hge : s.ge = false) :
    sdaDrive (effect i s) = if (effect i s).oe then presentedBit (s.tr ++ eventsOf i s) else .z :=
  sdaDrive_of_held (ge_effect i hge)

/-- An operation without a wire event leaves the bit last presented as it was; an indicator event is no wire event (R34, R52). -/
theorem presentedBit_append_eventsOf (hshift : isShift i = false) (hstart : i ≠ .stepStart) (hstop : i ≠ .stepStop)
    (hreset : i ≠ .reset) : presentedBit (s.tr ++ eventsOf i s) = presentedBit s.tr := by
  cases i with
  | shift e => cases hshift
  | stepStart => exact absurd rfl hstart
  | stepStop => exact absurd rfl hstop
  | reset => exact absurd rfl hreset
  | inbegin | inend => exact presentedBit_append _ _
  | _ => exact congrArg presentedBit (List.append_nil _)

/-- A SHIFT makes the drive what it presents, with the output enabled or not (R105, R109). -/
theorem sdaDrive_effect_shift (e : Bool) (hge : s.ge = false) : sdaDrive (effect (.shift e) s) = presented s := by
  cases hoe : s.oe with
  | false => exact (sdaDrive_of_input (s := effect (.shift e) s) hoe).trans (presented_of_input hoe).symm
  | true => exact (sdaDrive_effect _ hge).trans ((if_pos hoe).trans (presentedBit_append _ _))

theorem sdaDrive_effect_stepStart (hge : s.ge = false) : sdaDrive (effect .stepStart s) = .driven false :=
  (sdaDrive_effect _ hge).trans (presentedBit_append _ _)

theorem oe_effect_of_release (h : i = .stepStop ∨ i = .reset ∨ i = .stepAaw ∨ i = .stepDaw) :
    (effect i s).oe = false := by
  obtain rfl | rfl | rfl | rfl := h <;> rfl

end

/-- Settles O49: the bit last presented moves with the wire events only, and the output enable shows or hides it. -/
theorem driveFollowsShiftPassThroughOutputEnableAndReset :
    Obligations.DriveFollowsShiftPassThroughOutputEnableAndReset := by
  refine ⟨fun s => sdaDrive_of_passThrough, fun s => sdaDrive_of_input, fun s sr cnt hge => ?held,
    fun i s t hge h => ?after⟩
  case held => exact (sdaDrive_of_held (s := { s with sr := sr, cnt := cnt }) hge).trans (sdaDrive_of_held hge).symm
  case after =>
    obtain ⟨-, rfl⟩ := exec_next_iff.mp h
    refine ⟨fun hshift => ?shift, ?start, fun hrelease => sdaDrive_of_input (oe_effect_of_release hrelease),
      fun hshift hstart hstop hreset => ?others⟩
    case shift =>
      cases i with
      | shift e => exact sdaDrive_effect_shift e hge
      | _ => cases hshift
    case start =>
      rintro rfl
      have hlow := sdaDrive_effect_stepStart hge
      exact ⟨hlow, decide_eq_true hlow⟩
    case others =>
      rw [sdaDrive_effect i hge, presentedBit_append_eventsOf hshift hstart hstop hreset]
      exact ⟨fun hoe => by rw [hoe, sdaDrive_of_held hge], fun hoe => if_pos hoe⟩

end Sys2Proof.Machine
end

section
/-! PROOF. The input event (42_input_event.md): its three operations, the increment over any number of events, and the hold. -/

namespace Sys2Proof.Machine

/-! ### Runs of operations -/

section
variable {i : Instr} {ops rest : List Instr} {s t : State}

/-- A run that ends in a state did its first operation. -/
theorem runInstrs_cons_next_iff :
    runInstrs (i :: rest) s = .next t ↔ ∃ u, exec i s = .next u ∧ runInstrs rest u = .next t := by
  constructor
  · intro h
    cases hx : exec i s with
    | next u => exact ⟨u, rfl, runInstrs_cons_of_next hx ▸ h⟩
    | fault f => simp [runInstrs, hx] at h
    | refused r => simp [runInstrs, hx] at h
  · rintro ⟨u, hx, h⟩
    rw [runInstrs_cons_of_next hx, h]

/-- What each operation of a run keeps, the run keeps. -/
theorem runInstrs_keeps {P : State → Prop} (hkeep : ∀ i ∈ ops, ∀ s t, exec i s = .next t → P s → P t)
    (h : runInstrs ops s = .next t) (hs : P s) : P t := by
  induction ops generalizing s with
  | nil =>
    cases h
    exact hs
  | cons i ops ih =>
    obtain ⟨u, hx, hrest⟩ := runInstrs_cons_next_iff.mp h
    exact ih (fun j hj => hkeep j (List.mem_cons_of_mem i hj)) hrest (hkeep i List.mem_cons_self s u hx hs)

end

/-! ### EDGE, INBEGIN and INEND -/

theorem exec_edge (s : State) : exec .edge s = .next { s with inIfg := true } :=
  exec_of_silent (i := .edge) trivial rfl

/-- Without an enabled edge no input service begins, in any state, legal or not (R116, R10). -/
theorem exec_inbegin_of_not_ready {s : State} (h : ¬ (s.inIfg = true ∧ s.inIe = true)) :
    exec .inbegin s = .refused .inbeginNotEnabled := if_neg (mt inGranted_iff.mp h)

theorem exec_inend_of_not_busy {s : State} (h : s.inBusy = false) : exec .inend s = .refused .inendNotEnabled :=
  if_neg (Bool.eq_false_iff.mp h)

/-- The 4-bit sum is the increment of R120: modulo 16, no carry out. -/
theorem add_one_eq_ofNat (data : Nibble) : data + 1#4 = BitVec.ofNat 4 ((data.toNat + 1) % 16) := by bv_omega

/-- Settles O24: EDGE waits for nothing and writes the flag only. -/
theorem edgeResult : Obligations.EdgeResult := ⟨rfl, exec_edge⟩

/-- Settles O25: its effect with the increment in numbers; the busy block has `in_ie` off (I6), so it is not entered again. -/
theorem inbeginResult : Obligations.InbeginResult := by
  refine ⟨rfl, fun s => ⟨fun hflag henable => ?next, exec_inbegin_of_not_ready, fun hinv henable => ?notBusy⟩⟩
  case next => rw [← add_one_eq_ofNat]; exact exec_of_canOccur ⟨hflag, henable⟩
  case notBusy =>
    refine Bool.eq_false_iff.mpr fun hbusy => ?_
    have hoff : s.inIe = false := hinv.busyIffInOff.mp hbusy
    exact absurd (henable.symm.trans hoff) (by decide)

/-- Settles O26: its enabling and its effect. -/
theorem inendResult : Obligations.InendResult :=
  ⟨rfl, fun _ => ⟨fun hbusy => exec_of_canOccur hbusy, exec_inend_of_not_busy⟩⟩

/-! ### The increment over complete input events -/

/-- One complete input event counts one and leaves the block ready for the next (R116, R117, R120). -/
theorem runInstrs_inputEvent {s : State} (henable : s.inIe = true) :
    ∃ t, runInstrs [.edge, .inbegin, .inend] s = .next t ∧ t.inIe = true ∧ t.data = s.data + 1#4 := by
  have hbegin := exec_of_canOccur (i := .inbegin) (s := { s with inIfg := true }) ⟨rfl, henable⟩
  have hend := exec_of_canOccur (i := .inend) (s := effect .inbegin { s with inIfg := true }) rfl
  refine ⟨effect .inend (effect .inbegin { s with inIfg := true }), ?_, rfl, rfl⟩
  rw [runInstrs_cons_of_next (exec_edge s), runInstrs_cons_of_next hbegin, runInstrs_cons_of_next hend, runInstrs]

theorem runInstrs_inputEvents (n : Nat) {s : State} (henable : s.inIe = true) :
    ∃ t, runInstrs (List.replicate n [Instr.edge, .inbegin, .inend]).flatten s = .next t ∧
      t.data.toNat = (s.data.toNat + n) % 16 := by
  induction n generalizing s with
  | zero => exact ⟨s, rfl, (Nat.mod_eq_of_lt s.data.isLt).symm⟩
  | succ n ih =>
    obtain ⟨t, hfirst, hready, hdata⟩ := runInstrs_inputEvent henable
    obtain ⟨u, hrest, hcount⟩ := ih hready
    refine ⟨u, ?_, ?_⟩
    · rw [List.replicate_succ, List.flatten_cons, runInstrs_append_of_next hfirst, hrest]
    · rw [hcount, hdata]
      bv_omega

/-- Settles O27: INBEGIN adds one to the 4-bit `data`, the frame excludes every other operation but RESET, and the events are counted by
induction. -/
theorem dataIncrementsModuloSixteen : Obligations.DataIncrementsModuloSixteen := by
  refine ⟨fun s t h => ?increment, fun i s t h hinbegin hreset => ?frame, fun n s henable => runInstrs_inputEvents n henable⟩
  case increment =>
    obtain ⟨-, -, rfl⟩ := execInbegin_next h
    constructor
    · intro hbound
      show (s.data + 1#4).toNat = s.data.toNat + 1
      bv_omega
    · intro hmax
      exact congrArg (· + 1#4) hmax
  case frame =>
    obtain ⟨-, hdata, -⟩ := onlyOwnersWrite i s t h hreset
    exact hdata hinbegin

/-! ### Edges in the hold -/

/-- EDGEs and SHIFTs neither count nor end the hold (R118). -/
theorem hold_keeps_data_and_busy {hold : List Instr} {s t : State} (hops : ∀ i ∈ hold, i = .edge ∨ isShift i = true)
    (h : runInstrs hold s = .next t) : t.data = s.data ∧ t.inBusy = s.inBusy := by
  refine runInstrs_keeps (P := fun u => u.data = s.data ∧ u.inBusy = s.inBusy) (fun i hi u v hx hu => ?_) h ⟨rfl, rfl⟩
  obtain ⟨-, rfl⟩ := exec_next_iff.mp hx
  obtain rfl | hshift := hops i hi
  · exact hu
  · cases i with
    | shift e => exact hu
    | _ => cases hshift

/-- Settles O28: the hold leaves `data` and the busy bit to INEND, which drops whatever edge it finds; the flag has no count, so setting it
again changes nothing. -/
theorem edgesAreLostOrMerged : Obligations.EdgesAreLostOrMerged := by
  refine ⟨fun s t u hold hbegin hops hrun => ?lost, fun s t h => ?merged⟩
  case lost =>
    obtain ⟨-, -, rfl⟩ := execInbegin_next hbegin
    obtain ⟨hdata, hbusy⟩ := hold_keeps_data_and_busy hops hrun
    exact ⟨effect .inend u, exec_of_canOccur hbusy, hdata, rfl, rfl, rfl, rfl,
      exec_inbegin_of_not_ready fun ⟨hflag, _⟩ => Bool.false_ne_true hflag⟩
  case merged =>
    rw [execEdge_next h]
    exact exec_edge _

end Sys2Proof.Machine
end

section
/-! PROOF. The host (43_host_interface.md): RESET and ARM, and quiescence as the end of what the block does by itself (R129). -/

namespace Sys2Proof.Machine

/-! ### RESET and ARM -/

/-- Settles O30: its effect, with the model's next draw of SR_RESET as the witness. -/
theorem resetResult : Obligations.ResetResult :=
  ⟨rfl, fun s => ⟨Config.srReset s.draws, exec_of_canOccur (i := .reset) trivial⟩⟩

/-- Outside rest ARM is refused in any state, legal or not (R126). -/
theorem exec_arm_of_not_at_rest {s : State} (h : ¬ (s.ts = 0#3 ∧ s.cnt = 0#4)) : exec .arm s = .refused .armWhileBusy :=
  if_neg (mt armAdmitted_iff.mp h)

/-- Settles O31: its enabling and its effect. -/
theorem armResult : Obligations.ArmResult :=
  ⟨rfl, fun _ => ⟨fun hts hcnt => exec_of_silent (i := .arm) ⟨hts, hcnt⟩ rfl, exec_arm_of_not_at_rest⟩⟩

/-! ### Quiescence -/

section
variable {s : State}

theorem isStep_stepOf (u : TState) (b : Bool) : isStep (stepOf u b) = true := by
  cases u with
  | addrAckCheck => cases b <;> rfl
  | _ => rfl

/-- With its request ready, the STEP a state selects occurs there (R76, R90). -/
theorem canOccur_stepOf {u : TState} (hi : s.seIfg = true) (he : s.seIe = true) (hts : s.ts = u.code) :
    canOccur (stepOf u (receivedBit s)) s := by
  cases u with
  | addrAckCheck =>
    cases hb : receivedBit s with
    | false => exact ⟨hi, he, hts, (Bool.not_eq_true' _).mpr hb⟩
    | true => exact ⟨hi, he, hts, hb⟩
  | _ => exact ⟨hi, he, hts, rfl⟩

/-- A quiescent state has no transfer, no request and no hold, one of which every internal operation waits for (R10, R129). -/
theorem not_enabled_of_quiescent {i : Instr} (hq : quiescent s) (hinternal : isInternal i = true) : ¬ enabled i s := by
  obtain ⟨-, hcnt, hrequest, hedge, hbusy⟩ := hq
  rw [enabled_iff_canOccur]
  intro hc
  cases i with
  | reset | arm | edge => cases hinternal
  | shift e => exact hc hcnt
  | inbegin => exact Bool.false_ne_true (hedge.symm.trans hc.1)
  | inend => exact Bool.false_ne_true (hbusy.symm.trans hc)
  | _ => exact Bool.false_ne_true (hrequest.symm.trans hc.1)

/-- Where nothing internal is enabled there is no hold, so both enables are on (I6) and neither flag can be set; then `live` leaves only
Start. -/
theorem quiescent_of_none_enabled (h : Invariants s) (hnone : ∀ i, isInternal i = true → ¬ enabled i s) : quiescent s := by
  have stuck (i : Instr) (hinternal : isInternal i = true) : ¬ canOccur i s :=
    mt enabled_iff_canOccur.mpr (hnone i hinternal)
  have hbusy : s.inBusy = false := Bool.eq_false_iff.mpr (stuck .inend rfl)
  have hseIe : s.seIe = true := by simpa [hbusy] using h.busyIffSeOff
  have hinIe : s.inIe = true := by simpa [hbusy] using h.busyIffInOff
  have hedge : s.inIfg = false := Bool.eq_false_iff.mpr fun hflag => stuck .inbegin rfl ⟨hflag, hinIe⟩
  have hcnt : s.cnt = 0#4 := not_not.mp (stuck (.shift true) rfl)
  have hrequest : s.seIfg = false := Bool.eq_false_iff.mpr fun hflag => by
    obtain ⟨u, hts⟩ := h.legalState
    exact stuck (stepOf u (receivedBit s)) (by simp [isInternal, isStep_stepOf]) (canOccur_stepOf hflag hseIe hts)
  have hts : s.ts = TState.start.code := by
    by_contra hne
    obtain hpending | hflag := h.live hne
    · exact hpending hcnt
    · exact Bool.false_ne_true (hrequest.symm.trans hflag)
  exact ⟨hts, hcnt, hrequest, hedge, hbusy⟩

end

/-- Settles O36: both directions of the equivalence, and the bus released by I7 and I4. -/
theorem quiescentIffNothingInternalEnabled : Obligations.QuiescentIffNothingInternalEnabled := by
  intro s h
  refine ⟨⟨fun hq i => not_enabled_of_quiescent hq, quiescent_of_none_enabled h⟩, fun hq => ?released⟩
  obtain ⟨hts, -, hrequest, -, -⟩ := hq
  obtain ⟨-, hoe⟩ := h.idleReleased hts hrequest
  exact ⟨hoe, h.passThroughOff⟩

end Sys2Proof.Machine
end

section
/-! PROOF. Exceptions (60_exceptions.md): the data NACK, the arbiter, two requests served in either order, and the hold. -/

namespace Sys2Proof.Machine

/-! ### The data NACK -/

/-- The data ack slot and the STEP after it: the slave's bit goes to the trace, and the load of the stop-preparation value writes over it
(R96, R137). -/
theorem runInstrs_dataAckSlot {s : State} (e a : Bool) (hts : s.ts = TState.dataAckCheck.code) (hoe : s.oe = false)
    (hcnt : s.cnt = 1#4) (he : s.seIe = true) :
    runInstrs [.shift e, .stepDac a] s =
      .next (registersAfter (.stepDac a) { s with tr := s.tr ++ [.bit .z e] }) := by
  have hslot := exec_of_canOccur (i := .shift e) (s := s) (show s.cnt ≠ 0#4 by rw [hcnt]; decide)
  rw [effect_shift_released e hoe, hcnt] at hslot
  have hraised : flagAfterShift (1#4 - 1#4) s.seIfg = true := Bool.or_true _
  rw [runInstrs_cons_of_next hslot]
  exact runInstrs_cons_of_next (exec_of_silent (i := .stepDac a) ⟨hraised, he, hts, rfl⟩ rfl)

/-- Settles O42: the state after the slot and STEP.DAC holds the slave's bit in its trace only. -/
theorem dataNackIsSilent : Obligations.DataNackIsSilent := fun _ hts hoe hcnt he =>
  ⟨_, _, runInstrs_dataAckSlot false false hts hoe hcnt he, runInstrs_dataAckSlot true true hts hoe hcnt he, rfl, rfl, rfl⟩

/-! ### The arbiter -/

section
variable {p : Arb} {se inp : Bool}

theorem ready_of_arbGrantsSe (h : arbGrantsSe p se inp = true) : se = true := by
  cases p with
  | any | seFirst => exact h
  | inFirst => exact (Bool.and_eq_true_iff.mp h).1

theorem ready_of_arbGrantsIn (h : arbGrantsIn p se inp = true) : inp = true := by
  cases p with
  | any | inFirst => exact h
  | seFirst => exact (Bool.and_eq_true_iff.mp h).1

/-- No policy leaves every ready request waiting: the source it puts second is granted where the first is not ready. -/
theorem arb_grants_some (h : se = true ∨ inp = true) : arbGrantsSe p se inp = true ∨ arbGrantsIn p se inp = true := by
  cases p with
  | any => exact h
  | seFirst =>
    cases se with
    | true => exact .inl rfl
    | false => exact .inr (by simpa [arbGrantsIn] using h)
  | inFirst =>
    cases inp with
    | true => exact .inr rfl
    | false => exact .inl (by simpa [arbGrantsSe] using h)

end

/-- Settles O41: the three general clauses policy by policy; the grants of a named policy are its definition. -/
theorem arbiterPolicies : Obligations.ArbiterPolicies :=
  ⟨rfl, fun _ _ _ => ⟨ready_of_arbGrantsSe, ready_of_arbGrantsIn, arb_grants_some, ⟨rfl, rfl⟩, ⟨rfl, rfl⟩, ⟨rfl, rfl⟩⟩⟩

/-! ### Two ready requests -/

/-- The whole input service with nothing between its two halves (R116, R117). -/
def inputService (s : State) : State := effect .inend (effect .inbegin s)

section
variable {i : Instr} {s : State}

theorem runInstrs_inputService {rest : List Instr} (hflag : s.inIfg = true) (henable : s.inIe = true) :
    runInstrs (.inbegin :: .inend :: rest) s = runInstrs rest (inputService s) := by
  have hbegin := exec_of_canOccur (i := .inbegin) ⟨hflag, henable⟩
  have hend := exec_of_canOccur (i := .inend) (s := effect .inbegin s) rfl
  rw [runInstrs_cons_of_next hbegin, runInstrs_cons_of_next hend, inputService]

/-- A STEP leaves the input side alone: the Data Register, the pending edge and, its frame restoring it, the enable (R144, R145). -/
theorem effect_step_keeps_input (hstep : isStep i = true) :
    (effect i s).data = s.data ∧ (effect i s).inIfg = s.inIfg ∧ (effect i s).inIe = s.inIe := by
  cases i with
  | reset | arm | edge | shift e | inbegin | inend => cases hstep
  | _ => exact ⟨rfl, rfl, rfl⟩

/-- A STEP and the input service write different elements but for the trace, and STEP.AAC.ACK reads the one element the service counts. -/
theorem inputService_effect_step (hstep : isStep i = true) :
    inputService (effect i s) =
      { effect i (inputService s) with tr := (inputService (effect i s)).tr, sr := (effect i s).sr } := by
  cases i with
  | reset | arm | edge | shift e | inbegin | inend => cases hstep
  | _ => rfl

theorem sr_effect_step_inputService (hstep : isStep i = true) (hack : i ≠ .stepAacAck) :
    (effect i s).sr = (effect i (inputService s)).sr := by
  cases i with
  | reset | arm | edge | shift e | inbegin | inend => cases hstep
  | stepAacAck => exact absurd rfl hack
  | _ => rfl

/-- STEP.AAC.ACK loads the zero-extended `data` (R93). -/
theorem sr_effect_stepAacAck (s : State) : (effect .stepAacAck s).sr = BitVec.ofNat 8 s.data.toNat :=
  (BitVec.ofNat_toNat 8 s.data).symm

end

/-- Settles O40: the STEP the state selects is selected after the service too, and the service's request is ready after the STEP; the two
end states differ where `inputService_effect_step` says. -/
theorem arbitrationOrdersConverge : Obligations.ArbitrationOrdersConverge := by
  intro s i _ hi he hflag henable hsel
  obtain ⟨c, hts, rfl⟩ := exists_code_of_selectedStep hsel
  have hstep := isStep_stepOf c (receivedBit s)
  have hfirst := exec_of_canOccur (canOccur_stepOf hi he hts)
  have hsecond := exec_of_canOccur (canOccur_stepOf (s := inputService s) hi rfl hts)
  obtain ⟨hdata, hkeepFlag, hkeepEnable⟩ := effect_step_keeps_input (s := s) hstep
  refine ⟨inputService (effect (stepOf c (receivedBit s)) s), effect (stepOf c (receivedBit s)) (inputService s),
    ?seFirst, ?inFirst, inputService_effect_step hstep, sr_effect_step_inputService hstep,
    fun hack => hack ▸ ⟨sr_effect_stepAacAck s, sr_effect_stepAacAck (inputService s)⟩, ?count⟩
  case seFirst =>
    rw [runInstrs_cons_of_next hfirst, runInstrs_inputService (hkeepFlag.trans hflag) (hkeepEnable.trans henable)]
    rfl
  case inFirst =>
    rw [runInstrs_inputService hflag henable]
    exact runInstrs_cons_of_next hsecond
  case count => exact congrArg (· + 1#4) hdata

/-! ### The hold -/

/-- Inside the hold of the input service: busy, with both enables off (R116, R146). -/
def inHold (s : State) : Prop := s.inBusy = true ∧ s.seIe = false ∧ s.inIe = false

section
variable {i : Instr} {s t u : State} {hold : List Instr}

theorem inHold_after_inbegin (h : exec .inbegin s = .next t) : inHold t ∧ t.seIfg = s.seIfg := by
  obtain ⟨-, -, rfl⟩ := execInbegin_next h
  exact ⟨⟨rfl, rfl, rfl⟩, rfl⟩

theorem exec_step_of_inHold (hs : inHold s) (hstep : isStep i = true) : exec i s = .refused .stepNotEnabled := by
  obtain ⟨-, hseIe, -⟩ := hs
  exact exec_step_of_not_ready hstep fun ⟨_, he⟩ => Bool.false_ne_true (hseIe.symm.trans he)

theorem exec_inbegin_of_inHold (hs : inHold s) : exec .inbegin s = .refused .inbeginNotEnabled := by
  obtain ⟨-, -, hinIe⟩ := hs
  exact exec_inbegin_of_not_ready fun ⟨_, he⟩ => Bool.false_ne_true (hinIe.symm.trans he)

/-- ARM, EDGE and SHIFT are what can occur in the hold besides its end and RESET: none writes the enables or clears the request. -/
theorem hold_keeps (hreset : i ≠ .reset) (hinend : i ≠ .inend) (hs : inHold s) (h : exec i s = .next t) :
    inHold t ∧ (s.seIfg = true → t.seIfg = true) := by
  have hstep : isStep i = false := Bool.eq_false_iff.mpr fun hstep => by
    rw [exec_step_of_inHold hs hstep] at h
    cases h
  have hinbegin : i ≠ .inbegin := by
    rintro rfl
    rw [exec_inbegin_of_inHold hs] at h
    cases h
  obtain ⟨-, rfl⟩ := exec_next_iff.mp h
  cases i with
  | reset => exact absurd rfl hreset
  | inbegin => exact absurd rfl hinbegin
  | inend => exact absurd rfl hinend
  | arm => exact ⟨hs, fun _ => rfl⟩
  | edge => exact ⟨hs, id⟩
  | shift e => exact ⟨hs, Bool.or_eq_true_iff.mpr ∘ .inl⟩
  | _ => cases hstep

theorem runInstrs_hold_keeps (hops : ∀ i ∈ hold, i ≠ .reset ∧ i ≠ .inend) (hs : inHold s)
    (h : runInstrs hold s = .next u) : inHold u ∧ (s.seIfg = true → u.seIfg = true) := by
  refine runInstrs_keeps (P := fun v => inHold v ∧ (s.seIfg = true → v.seIfg = true))
    (fun i hi v w hx hv => ?_) h ⟨hs, id⟩
  obtain ⟨hhold, hrequest⟩ := hv
  obtain ⟨hreset, hinend⟩ := hops i hi
  obtain ⟨hhold', hrequest'⟩ := hold_keeps hreset hinend hhold hx
  exact ⟨hhold', hrequest' ∘ hrequest⟩

end

/-- Settles O29: the hold keeps both enables off, so both handlers are refused, and keeps a pending request, which INEND leaves. -/
theorem holdExcludesBothHandlers : Obligations.HoldExcludesBothHandlers := by
  refine ⟨fun s t u hold hbegin hops hrun => ?hold, fun i s t hstep h => ?step⟩
  case hold =>
    obtain ⟨hentered, hflag⟩ := inHold_after_inbegin hbegin
    obtain ⟨hhold, hrequest⟩ := runInstrs_hold_keeps hops hentered hrun
    have hbusy : u.inBusy = true := hhold.1
    exact ⟨hbusy, fun i => exec_step_of_inHold hhold, exec_inbegin_of_inHold hhold,
      effect .inend u, exec_of_canOccur hbusy, rfl, rfl, rfl, fun hs => hrequest (hflag.trans hs)⟩
  case step =>
    obtain ⟨-, rfl⟩ := exec_next_iff.mp h
    obtain ⟨-, hkept⟩ := effect_step_keeps_input (s := s) hstep
    exact hkept

end Sys2Proof.Machine
end

section
/-! PROOF. The length of a transaction (R98): how many STEPs and SHIFTs a state has ahead of it, and that each of them takes one away. -/

namespace Sys2Proof.Machine

/-! ### What lies ahead of a state -/

/-- The STEPs a transaction does from a state of the TSM on, STEP.STOP among them, when the address ack slot receives `nack` (R98). -/
def stepsFrom (nack : Bool) : TState → Nat
  | .start => if nack then 4 else 6
  | .addrAckWait => if nack then 3 else 5
  | .addrAckCheck => if nack then 2 else 4
  | .dataAckWait => 3
  | .dataAckCheck => 2
  | .stop => 1

/-- The bits of the transfers that those STEPs load (R91 to R97). -/
def bitsFrom (nack : Bool) : TState → Nat
  | .start => if nack then 10 else 19
  | .addrAckWait => if nack then 2 else 11
  | .addrAckCheck => if nack then 1 else 10
  | .dataAckWait => 2
  | .dataAckCheck => 1
  | .stop => 0

/-- The STEPs ahead of the block. -/
def stepsLeft (nack : Bool) (s : State) : Nat := (TState.ofCode s.ts).elim 0 (stepsFrom nack)

/-- The SHIFTs ahead of the block: those of the pending transfer and of the ones still to be loaded. -/
def shiftsLeft (nack : Bool) (s : State) : Nat := s.cnt.toNat + (TState.ofCode s.ts).elim 0 (bitsFrom nack)

/-- The bit of the address ack slot, as the operation that reads it says; any other leaves it to the operations after it. -/
def addrNackOr (later : Bool) : Instr → Bool
  | .stepAacAck => false
  | .stepAacNack => true
  | _ => later

/-- The address ack slot is not read yet: `ts` is Start, AddrAckWait or AddrAckCheck. -/
def awaitsAddrAck (s : State) : Prop := s.ts.toNat ≤ 2

section
variable {i : Instr} {s : State}

/-- Up to STEP.STOP each STEP takes one from the STEPs ahead, and no other operation does. -/
theorem stepsLeft_before (later : Bool) (hreset : i ≠ .reset) (hstop : i ≠ .stepStop) (hc : canOccur i s) :
    stepsLeft (addrNackOr later i) s = stepsLeft later (effect i s) + if isStep i then 1 else 0 := by
  cases i with
  | reset => exact absurd rfl hreset
  | stepStop => exact absurd rfl hstop
  | arm | edge | shift e | inbegin | inend => rfl
  | _ =>
    obtain ⟨-, -, hts, -⟩ := hc
    rw [stepsLeft, hts]
    cases later <;> rfl

/-- Up to STEP.STOP each SHIFT takes one from the SHIFTs ahead, and no other operation does: a STEP finds no transfer pending (I5) and
loads the one counted for it. -/
theorem shiftsLeft_before (later : Bool) (h : Invariants s) (hreset : i ≠ .reset) (hstop : i ≠ .stepStop)
    (hc : canOccur i s) :
    shiftsLeft (addrNackOr later i) s = shiftsLeft later (effect i s) + if isShift i then 1 else 0 := by
  cases i with
  | reset => exact absurd rfl hreset
  | stepStop => exact absurd rfl hstop
  | arm | edge | inbegin | inend => rfl
  | shift e =>
    have hcnt : s.cnt.toNat = (s.cnt - 1#4).toNat + 1 := by
      have : s.cnt ≠ 0#4 := hc
      bv_omega
    change s.cnt.toNat + _ = (s.cnt - 1#4).toNat + (TState.ofCode s.ts).elim 0 (bitsFrom later) + 1
    rw [hcnt, Nat.add_right_comm]
    rfl
  | _ =>
    obtain ⟨hflag, -, hts, -⟩ := hc
    rw [shiftsLeft, hts, h.requestOnlyWhenDone hflag]
    cases later <;> rfl

/-- The address ack slot is read by one of the two STEPs of AddrAckCheck, and until then it stays to be read. -/
theorem addrAck_read_or_awaited (later : Bool) (hreset : i ≠ .reset) (hc : canOccur i s) (hs : awaitsAddrAck s) :
    i = stepOf .addrAckCheck (addrNackOr later i) ∨ awaitsAddrAck (effect i s) ∧ addrNackOr later i = later := by
  cases i with
  | reset => exact absurd rfl hreset
  | arm | edge | shift e | inbegin | inend => exact .inr ⟨hs, rfl⟩
  | stepAacAck | stepAacNack => exact .inl rfl
  | stepStart => exact .inr ⟨show TState.addrAckWait.code.toNat ≤ 2 by decide, rfl⟩
  | stepAaw => exact .inr ⟨show TState.addrAckCheck.code.toNat ≤ 2 by decide, rfl⟩
  | _ =>
    obtain ⟨-, -, hts, -⟩ := hc
    rw [awaitsAddrAck, hts] at hs
    exact absurd hs (by decide)

end

/-! ### A run to the first STEP.STOP -/

/-- A run to its first STEP.STOP does exactly what lies ahead of its first state, for one value of the address ack. -/
theorem run_to_stepStop {ops : List Instr} {s t : State} (h : Invariants s)
    (hops : ∀ i ∈ ops, i ≠ .reset ∧ i ≠ .stepStop) (hrun : runInstrs (ops ++ [.stepStop]) s = .next t) :
    ∃ nack, countOps isStep ops + 1 = stepsLeft nack s ∧ countOps isShift ops = shiftsLeft nack s ∧
      (awaitsAddrAck s → stepOf .addrAckCheck nack ∈ ops) := by
  induction ops generalizing s with
  | nil =>
    obtain ⟨u, hx, -⟩ := runInstrs_cons_next_iff.mp hrun
    obtain ⟨hflag, -, hts, -⟩ := execStepStop_next hx
    refine ⟨false, ?_, ?_, fun hs => ?_⟩
    · rw [stepsLeft, hts]
      rfl
    · rw [shiftsLeft, hts, h.requestOnlyWhenDone hflag]
      rfl
    · rw [awaitsAddrAck, hts] at hs
      exact absurd hs (by decide)
  | cons i ops ih =>
    obtain ⟨u, hx, hrest⟩ := runInstrs_cons_next_iff.mp hrun
    obtain ⟨hreset, hstop⟩ := hops i List.mem_cons_self
    obtain ⟨later, hsteps, hshifts, hack⟩ := ih (h.after_exec hx) (fun j hj => hops j (List.mem_cons_of_mem i hj)) hrest
    obtain ⟨hc, rfl⟩ := exec_next_iff.mp hx
    refine ⟨addrNackOr later i, ?_, ?_, fun hs => ?_⟩
    · rw [stepsLeft_before later hreset hstop hc, ← hsteps, countOps, List.countP_cons, Nat.add_right_comm, countOps]
    · rw [shiftsLeft_before later h hreset hstop hc, ← hshifts, countOps, List.countP_cons, countOps]
    · obtain hread | ⟨hawaited, hlater⟩ := addrAck_read_or_awaited later hreset hc hs
      · exact hread ▸ List.mem_cons_self
      · rw [hlater]
        exact List.mem_cons_of_mem i (hack hawaited)

/-- Settles O45: the run does what lies ahead of an armed Start state, which is one of the two rows of R98. -/
theorem completedTransactionCounts : Obligations.CompletedTransactionCounts := by
  intro s t ops h hts hflag hops hrun
  obtain ⟨nack, hsteps, hshifts, hack⟩ := run_to_stepStop h hops hrun
  rw [stepsLeft, hts] at hsteps
  rw [shiftsLeft, hts, h.requestOnlyWhenDone hflag] at hshifts
  have hread := hack (by rw [awaitsAddrAck, hts]; decide)
  have hcount : countOps isStep (ops ++ [.stepStop]) = countOps isStep ops + 1 := List.countP_append
  rw [hcount, hsteps, hshifts]
  cases nack with
  | false => exact .inl ⟨rfl, rfl, hread⟩
  | true => exact .inr ⟨rfl, rfl, hread⟩

end Sys2Proof.Machine
end

section
/-! PROOF. Fair executions (R181): once edges stop the input service ends for good, so a transaction moves on until its STEP.STOP; with
edges for ever it may never move. -/

namespace Sys2Proof.Machine

/-! ### Executions -/

section
variable {st : Nat → State} {op : Nat → Option Instr} {i : Instr} {n : Nat}

namespace IsExecution

theorem of_some (hx : IsExecution st op) (h : op n = some i) : exec i (st n) = .next (st (n + 1)) := by
  have := hx n
  rwa [h] at this

theorem of_none (hx : IsExecution st op) (h : op n = none) : st (n + 1) = st n := by
  have := hx n
  rwa [h] at this

/-- What every operation from some index on keeps holds from there on. -/
theorem keeps {P : State → Prop} (hx : IsExecution st op)
    (hkeep : ∀ m i, n ≤ m → op m = some i → exec i (st m) = .next (st (m + 1)) → P (st m) → P (st (m + 1)))
    (hn : P (st n)) : ∀ m, n ≤ m → P (st m) := by
  intro m hm
  induction m, hm using Nat.le_induction with
  | base => exact hn
  | succ m hm ih =>
    cases h : op m with
    | none => exact hx.of_none h ▸ ih
    | some i => exact hkeep m i hm h (hx.of_some h) ih

theorem invariants (hx : IsExecution st op) (h0 : Invariants (st 0)) (m : Nat) : Invariants (st m) :=
  hx.keeps (fun _ _ _ _ hexec h => h.after_exec hexec) h0 m (Nat.zero_le m)

end IsExecution

end

/-! ### A transaction under way -/

/-- A transaction is under way: a transfer is pending or its completion, or the ARM, is flagged. -/
def underWay (s : State) : Prop := s.cnt = 0#4 → s.seIfg = true

/-- At most how many STEPs and SHIFTs a transaction still does: those of the acknowledged one. -/
def workLeft (s : State) : Nat := stepsLeft false s + shiftsLeft false s

section
variable {i : Instr} {s t : State}

/-- A transaction under way ends by RESET or STEP.STOP only: a SHIFT flags the last bit, and every other STEP loads a transfer. -/
theorem underWay_after (hreset : i ≠ .reset) (hstop : i ≠ .stepStop) (h : exec i s = .next t) (hs : underWay s) :
    underWay t := by
  obtain ⟨-, rfl⟩ := exec_next_iff.mp h
  cases i with
  | reset => exact absurd rfl hreset
  | stepStop => exact absurd rfl hstop
  | arm => exact fun _ => rfl
  | edge | inbegin | inend => exact hs
  | shift e => exact fun hdone => Bool.or_eq_true_iff.mpr (.inr (beq_iff_eq.mpr hdone))
  | _ => exact fun hloaded => absurd hloaded (by simp [effect, registersAfter])

/-- An address NACK only shortens a transaction (R94). -/
theorem stepsLeft_le (nack : Bool) (s : State) : stepsLeft nack s ≤ stepsLeft false s := by
  rw [stepsLeft, stepsLeft]
  cases TState.ofCode s.ts with
  | none => rfl
  | some u => cases u <;> cases nack <;> decide

theorem shiftsLeft_le (nack : Bool) (s : State) : shiftsLeft nack s ≤ shiftsLeft false s := by
  refine Nat.add_le_add_left ?_ _
  cases TState.ofCode s.ts with
  | none => rfl
  | some u => cases u <;> cases nack <;> decide

/-- Up to STEP.STOP no operation adds work, and each STEP and each SHIFT takes some away. -/
theorem workLeft_after (h : Invariants s) (hreset : i ≠ .reset) (hstop : i ≠ .stepStop) (hx : exec i s = .next t) :
    workLeft t ≤ workLeft s ∧ (isStep i = true ∨ isShift i = true → workLeft t < workLeft s) := by
  obtain ⟨hc, rfl⟩ := exec_next_iff.mp hx
  have hsteps := stepsLeft_before false hreset hstop hc ▸ stepsLeft_le (addrNackOr false i) s
  have hshifts := shiftsLeft_before false h hreset hstop hc ▸ shiftsLeft_le (addrNackOr false i) s
  unfold workLeft
  refine ⟨by omega, fun hmoves => ?_⟩
  obtain hmoves | hmoves := hmoves
  · rw [if_pos hmoves] at hsteps
    omega
  · rw [if_pos hmoves] at hshifts
    omega

end

/-! ### Progress once edges stop -/

/-- No input event pending or in service. -/
def inputQuiet (s : State) : Prop := s.inIfg = false ∧ s.inBusy = false

section
variable {i : Instr} {s t : State}

/-- Only EDGE disturbs a quiet input: INBEGIN needs the flag that EDGE sets. -/
theorem inputQuiet_after (hedge : i ≠ .edge) (h : exec i s = .next t) (hs : inputQuiet s) : inputQuiet t := by
  obtain ⟨hc, rfl⟩ := exec_next_iff.mp h
  cases i with
  | edge => exact absurd rfl hedge
  | inbegin => exact absurd (hs.1.symm.trans hc.1) Bool.false_ne_true
  | reset | inend => exact ⟨rfl, rfl⟩
  | _ => exact hs

theorem inBusy_after (hreset : i ≠ .reset) (hinend : i ≠ .inend) (h : exec i s = .next t) (hs : s.inBusy = true) :
    t.inBusy = true := by
  obtain ⟨-, rfl⟩ := exec_next_iff.mp h
  cases i with
  | reset => exact absurd rfl hreset
  | inend => exact absurd rfl hinend
  | inbegin => rfl
  | _ => exact hs

theorem cnt_after (hreset : i ≠ .reset) (hstep : isStep i = false) (hshift : isShift i = false)
    (h : exec i s = .next t) : t.cnt = s.cnt := by
  obtain ⟨-, -, -, hcnt, -⟩ := onlyOwnersWrite i s t h hreset
  exact hcnt (.inl hstep) hshift

end

section
variable {st : Nat → State} {op : Nat → Option Instr} {n : Nat}

/-- A hold that has begun ends: INEND is enabled until it occurs. -/
theorem inend_occurs (hx : IsExecution st op) (hfair : FairEngine st op) (hreset : ∀ m, op m ≠ some .reset)
    (hbusy : (st n).inBusy = true) : ∃ m, n ≤ m ∧ op m = some .inend := by
  by_contra hnever
  have hhold := hx.keeps (P := (·.inBusy = true))
    (fun m _ hm hop => inBusy_after (fun h => hreset m (h ▸ hop)) fun h => hnever ⟨m, hm, h ▸ hop⟩) hbusy
  obtain ⟨m, hm, i, hop, hi⟩ := hfair.inend n fun m hm => ⟨.inend, rfl, enabled_iff_canOccur.mpr (hhold m hm)⟩
  exact hnever ⟨m, hm, hop.trans (congrArg some (beq_iff_eq.mp hi))⟩

/-- Without edges there comes an index from which no hold is open: INEND clears the flag that another INBEGIN would need. -/
theorem holds_end (hx : IsExecution st op) (hfair : FairEngine st op) (hreset : ∀ m, op m ≠ some .reset)
    (hedge : ∀ m, n ≤ m → op m ≠ some .edge) : ∃ q, n ≤ q ∧ ∀ m, q ≤ m → (st m).inBusy = false := by
  by_cases hfree : ∀ m, n ≤ m → (st m).inBusy = false
  · exact ⟨n, le_rfl, hfree⟩
  · push Not at hfree
    obtain ⟨b, hb, hbusy⟩ := hfree
    obtain ⟨e, he, hend⟩ := inend_occurs hx hfair hreset (Bool.eq_true_of_not_eq_false hbusy)
    have hquiet : inputQuiet (st (e + 1)) := by
      obtain ⟨-, ht⟩ := execInend_next (hx.of_some hend)
      rw [ht]
      exact ⟨rfl, rfl⟩
    refine ⟨e + 1, by omega, fun m hm => ?_⟩
    obtain ⟨-, hfree⟩ := hx.keeps (P := inputQuiet)
      (fun k _ hk hop => inputQuiet_after fun h => hedge k (by omega) (h ▸ hop)) hquiet m hm
    exact hfree

/-- Where no hold is open a transaction under way moves on: until a STEP or a SHIFT occurs `cnt` stays, so either SHIFT stays enabled or
the request stays ready. -/
theorem step_or_shift_occurs (hx : IsExecution st op) (hfair : FairEngine st op) (hinv : ∀ m, Invariants (st m))
    (hunder : ∀ m, underWay (st m)) (hreset : ∀ m, op m ≠ some .reset) (hfree : ∀ m, n ≤ m → (st m).inBusy = false) :
    ∃ m i, n ≤ m ∧ op m = some i ∧ (isStep i = true ∨ isShift i = true) := by
  by_contra hnever
  push Not at hnever
  have hcnt := hx.keeps (P := (·.cnt = (st n).cnt)) (fun m i hm hop hexec hkept => by
    obtain ⟨hstep, hshift⟩ := hnever m i hm hop
    have hsame := cnt_after (fun h => hreset m (h ▸ hop)) (Bool.eq_false_iff.mpr hstep) (Bool.eq_false_iff.mpr hshift) hexec
    exact hsame.trans hkept) rfl
  by_cases hdone : (st n).cnt = 0#4
  · have hready (m : Nat) (hm : n ≤ m) : ∃ i, isStep i = true ∧ enabled i (st m) := by
      obtain ⟨u, hts⟩ := (hinv m).legalState
      have hseIe : (st m).seIe = true := by simpa [hfree m hm] using (hinv m).busyIffSeOff
      have hflag := hunder m ((hcnt m hm).trans hdone)
      exact ⟨_, isStep_stepOf u _, enabled_iff_canOccur.mpr (canOccur_stepOf hflag hseIe hts)⟩
    obtain ⟨m, hm, i, hop, hi⟩ := hfair.step n hready
    exact (hnever m i hm hop).1 hi
  · have hpending (m : Nat) (hm : n ≤ m) : enabled (.shift true) (st m) :=
      enabled_iff_canOccur.mpr fun h => hdone ((hcnt m hm).symm.trans h)
    obtain ⟨m, hm, i, hop, hi⟩ := hfair.shift n fun m hm => ⟨_, rfl, hpending m hm⟩
    exact (hnever m i hm hop).2 hi

end

/-- Settles O46: without a STEP.STOP the transaction would stay under way and its work would fall for ever. -/
theorem fairEngineCompletesTransaction : Obligations.FairEngineCompletesTransaction := by
  intro st op hx hfair h0 _ hflag hreset ⟨n, hedge⟩
  by_contra hnever
  have hstop (m : Nat) : op m ≠ some .stepStop := fun h => hnever ⟨m, h⟩
  have hinv := hx.invariants h0
  have hallowed {m : Nat} {i : Instr} (hop : op m = some i) : i ≠ .reset ∧ i ≠ .stepStop :=
    ⟨fun h => hreset m (h ▸ hop), fun h => hstop m (h ▸ hop)⟩
  have hunder (m : Nat) : underWay (st m) :=
    hx.keeps (fun _ _ _ hop => underWay_after (hallowed hop).1 (hallowed hop).2) (fun _ => hflag) m (Nat.zero_le m)
  obtain ⟨q, -, hfree⟩ := holds_end hx hfair hreset hedge
  have hdescent (w : Nat) : ∀ k, q ≤ k → workLeft (st k) ≠ w := by
    induction w using Nat.strong_induction_on with
    | _ w ih =>
      rintro k hk rfl
      obtain ⟨m, i, hm, hop, hmoves⟩ :=
        step_or_shift_occurs hx hfair hinv hunder hreset fun m hm => hfree m (le_trans hk hm)
      have hle : workLeft (st m) ≤ workLeft (st k) :=
        hx.keeps (P := (workLeft · ≤ workLeft (st k))) (fun m i _ hop hexec hle =>
          (workLeft_after (hinv m) (hallowed hop).1 (hallowed hop).2 hexec).1.trans hle) le_rfl m hm
      have hlt := (workLeft_after (hinv m) (hallowed hop).1 (hallowed hop).2 (hx.of_some hop)).2 hmoves
      exact ih _ (hlt.trans_le hle) (m + 1) (by omega) rfl
  exact hdescent _ q le_rfl rfl

/-! ### Starvation -/

/-- Input events one after another for ever: EDGE, INBEGIN, INEND. -/
def trafficOp (n : Nat) : Instr :=
  match n % 3 with
  | 0 => .edge
  | 1 => .inbegin
  | _ => .inend

/-- The block armed after reset, under that traffic. -/
def trafficState : Nat → State
  | 0 => effect .arm State.reset
  | n + 1 => effect (trafficOp n) (trafficState n)

/-- Where the input service is at each index of the traffic: waiting for an edge, requested, or in its hold; and no transfer is ever
pending. -/
theorem trafficState_phase (n : Nat) :
    (trafficState n).cnt = 0#4 ∧ (n % 3 = 0 ∧ (trafficState n).inIe = true ∨
      n % 3 = 1 ∧ (trafficState n).inIfg = true ∧ (trafficState n).inIe = true ∨
      n % 3 = 2 ∧ inHold (trafficState n)) := by
  induction n with
  | zero => exact ⟨rfl, .inl ⟨rfl, rfl⟩⟩
  | succ n ih =>
    obtain ⟨hcnt, ⟨hn, hinIe⟩ | ⟨hn, -, -⟩ | ⟨hn, -⟩⟩ := ih <;> rw [trafficState, trafficOp, hn]
    · exact ⟨hcnt, .inr (.inl ⟨by omega, rfl, hinIe⟩)⟩
    · exact ⟨hcnt, .inr (.inr ⟨by omega, rfl, rfl, rfl⟩)⟩
    · exact ⟨hcnt, .inl ⟨by omega, rfl⟩⟩

theorem canOccur_trafficOp (n : Nat) : canOccur (trafficOp n) (trafficState n) := by
  obtain ⟨-, ⟨hn, -⟩ | ⟨hn, hready⟩ | ⟨hn, hbusy, -⟩⟩ := trafficState_phase n <;> rw [trafficOp, hn]
  · trivial
  · exact hready
  · exact hbusy

theorem trafficState_isExecution : IsExecution trafficState fun n => some (trafficOp n) :=
  fun n => exec_of_canOccur (canOccur_trafficOp n)

/-- Index `3 * n + 2` is inside a hold, where no STEP occurs. -/
theorem traffic_step_disabled {i : Instr} (n : Nat) (hstep : isStep i = true) : ¬ enabled i (trafficState (3 * n + 2)) := by
  rintro ⟨t, h⟩
  have hhold : inHold (trafficState (3 * n + 2)) := by
    obtain ⟨-, ⟨hn, -⟩ | ⟨hn, -⟩ | ⟨-, hhold⟩⟩ := trafficState_phase (3 * n + 2)
    · omega
    · omega
    · exact hhold
  rw [exec_step_of_inHold hhold hstep] at h
  cases h

/-- The traffic is fair: SHIFT is never enabled, the STEP is not in any hold, INBEGIN and INEND occur in every event. -/
theorem traffic_fair : FairEngine trafficState fun n => some (trafficOp n) where
  shift n h := by
    obtain ⟨i, hi, he⟩ := h n le_rfl
    cases i with
    | shift e => exact absurd (trafficState_phase n).1 (enabled_iff_canOccur.mp he)
    | _ => cases hi
  step n h := by
    obtain ⟨i, hi, he⟩ := h (3 * n + 2) (by omega)
    exact absurd he (traffic_step_disabled n hi)
  inbegin n _ := ⟨3 * n + 1, by omega, .inbegin, by simp [trafficOp], rfl⟩
  inend n _ := ⟨3 * n + 2, by omega, .inend, by simp [trafficOp], rfl⟩

theorem trafficOp_is_input (n : Nat) : trafficOp n ≠ .reset ∧ isStep (trafficOp n) = false := by
  unfold trafficOp
  split <;> exact ⟨nofun, rfl⟩

/-- Settles O47: the armed block under input traffic for ever does EDGE, INBEGIN and INEND only. -/
theorem endlessInputTrafficCanStarve : Obligations.EndlessInputTrafficCanStarve := by
  obtain ⟨hreset, -⟩ := resetMeetsInvariants
  refine ⟨trafficState, fun n => some (trafficOp n), trafficState_isExecution, traffic_fair,
    hreset.after_arm ⟨rfl, rfl⟩, rfl, rfl, fun n h => ?noReset, fun n i h => ?noStep⟩
  case noReset =>
    obtain ⟨hne, -⟩ := trafficOp_is_input n
    exact hne (Option.some.inj h)
  case noStep =>
    obtain ⟨-, hstep⟩ := trafficOp_is_input n
    exact Option.some.inj h ▸ hstep

end Sys2Proof.Machine
end
